-- ==== Sys2Proof/Word.lean ====
section
/-! DEFINITION. The machine's word types (00_scope.md R8: u8, u12 and u16 are unsigned; bit 0 is the least significant bit). -/

namespace Sys2Proof

/-- A u8: one memory cell, one V register, one timer (R8, R18, R27, R41). -/
abbrev Byte := BitVec 8

/-- A u16: an instruction word, I, the PC, a stack entry, the keypad mask (R8, R21, R22, R24, R29). -/
abbrev Word := BitVec 16

/-- A u12: the address field `nnn` of an instruction (R61, R62). -/
abbrev Addr := BitVec 12

/-- A u4: the field `n` of an instruction (R61, R62). -/
abbrev Nibble := BitVec 4

/-- A register field `x` or `y`: every value 0x0 to 0xF names a register V0 to VF, and none is out of range (R18, R62). -/
abbrev Reg := BitVec 4

end Sys2Proof
end

