-- ==== Sys2Proof/Config.lean ====
section
/-! DEFINITION. What an implementation fixes for a run (00_scope.md R7, 10_state.md R37) and the values the spec leaves free. -/

namespace Sys2Proof

/-- The two domains that take steps (00_scope.md R14, 60_exceptions.md R149). -/
inductive Agent where
  /-- Runs ticks: the source's high-rate loop (R12). -/
  | fast
  /-- Runs frames: the source's low-rate loop (R12). -/
  | slow
  deriving DecidableEq, Repr, Inhabited

/-- VF_ALIAS_ORDER (R7, 41_register_alu.md R85): what VF holds when it is both destination and flag. -/
inductive VfAliasOrder where
  | flagLast
  | resultLast
  | either
  deriving DecidableEq, Repr

/-- KEY_SELECT (R7, 44_input.md R106): which pressed key FX0A stores. -/
inductive KeySelect where
  | lowest
  | any
  deriving DecidableEq, Repr

/-- The parameters of R7. They are fixed for a run (R37): the model carries them in State because a step has no other
argument, and no step changes them (log entry 1). -/
structure Params where
  /-- SHIFT_QUIRK: 8XY6 and 8XYE load Vy before they shift. -/
  shiftQuirk : Bool
  /-- IPS, instructions per second: a target rate that no rule's result depends on (R7, R169). R7 asks for a positive rate
  and does not say that it is whole: the model holds whole rates only (DESIGN CHOICE, safe, log entry 15). -/
  ips : Nat
  /-- STACK_DEPTH; `none` is unbounded. -/
  stackDepth : Option Nat
  /-- SIGNAL_FIFO_DEPTH; `none` is unbounded. -/
  signalFifoDepth : Option Nat
  /-- FONT: 80 bytes, glyph d at 5·d (R39, R45). -/
  font : List Byte
  /-- VF_ALIAS_ORDER. -/
  vfAliasOrder : VfAliasOrder
  /-- KEY_SELECT. -/
  keySelect : KeySelect
  deriving DecidableEq, Repr

/-- A source of values that the model does not choose: `draw()` of R9, a host input (R133, R145), the length of a burst (R150).
`script` holds values already settled from outside, next one first, and `drawn` counts the values taken so far. Where the
script is empty the value is an opaque function of the count, so that nothing fixes it (log entry 2). -/
structure Supply (α : Type) where
  script : List α
  drawn : Nat
  deriving DecidableEq, Repr

namespace Config

/-- MEM_SIZE (R6). -/
def memSize : Nat := 0x1000

/-- The address of the program image and of the first instruction (R6, 70_reset_and_hazards.md R152). -/
def imageBase : Nat := 0x200

/-- The font occupies addresses below 0x050 (R6, R45). -/
def fontSize : Nat := 0x50

/-- The default FONT of 93_implementation_defined.md section 3, glyphs 0 to F (log entry 3: PRESUMED). -/
def defaultFont : List Byte :=
  [0xF0, 0x90, 0x90, 0x90, 0xF0] ++ [0x20, 0x60, 0x20, 0x20, 0x70] ++
  [0xF0, 0x10, 0xF0, 0x80, 0xF0] ++ [0xF0, 0x10, 0xF0, 0x10, 0xF0] ++
  [0x90, 0x90, 0xF0, 0x10, 0x10] ++ [0xF0, 0x80, 0xF0, 0x10, 0xF0] ++
  [0xF0, 0x80, 0xF0, 0x90, 0xF0] ++ [0xF0, 0x10, 0x20, 0x40, 0x40] ++
  [0xF0, 0x90, 0xF0, 0x90, 0xF0] ++ [0xF0, 0x90, 0xF0, 0x10, 0xF0] ++
  [0xF0, 0x90, 0xF0, 0x90, 0x90] ++ [0xE0, 0x90, 0xE0, 0x90, 0xE0] ++
  [0xF0, 0x80, 0x80, 0x80, 0xF0] ++ [0xE0, 0x90, 0x90, 0x90, 0xE0] ++
  [0xF0, 0x80, 0xF0, 0x80, 0xF0] ++ [0xF0, 0x80, 0xF0, 0x80, 0x80]

/-- The defaults of R7. STACK_DEPTH is OPEN there: the model's default is unbounded (log entry 4: DESIGN CHOICE). -/
def defaults : Params where
  shiftQuirk := true
  ips := 700
  stackDepth := none
  signalFifoDepth := none
  font := defaultFont
  vfAliasOrder := .either
  keySelect := .any

/-- FREE VALUE: the byte of the n-th `draw()` (R9, R38, R110; 92_eei_decisions.md D20). -/
opaque freeByte : Nat → Byte

/-- FREE VALUE: the keypad mask the host presents at the n-th sample, any u16 (R133, R145). -/
opaque freeKeys : Nat → Word

/-- FREE VALUE: whether the host requests a quit at the n-th S2 (R133, R135). -/
opaque freeQuit : Nat → Bool

/-- FREE VALUE: which domain the first step after reset is offered to (60_exceptions.md R149: in no fixed order). -/
opaque freeFirst : Agent

/-- FREE VALUE: how many further steps the n-th burst offers to its domain after its first one (R150: any number of steps of one
domain, but never all, between two of the other). -/
opaque freeBurst : Nat → Nat

/-- FREE VALUE: what the 16-bit `info` of a StackOverflow holds when STACK_DEPTH does not fit in 16 bits, which the spec does
not state (log entry 5). -/
opaque freeDepthInfo : Nat → Word

/-- FREE VALUE: what `fault_pc` carries while no fault is recorded, for which R112 gives no value. It is applied to the block's whole
state, which never recurs in a run, so that its value at one moment says nothing of another (log entry 12). -/
opaque freeFaultPc {α : Type} : α → Word

/-- FREE VALUE: what `fault_info` carries while no fault is recorded (R112; log entry 12). -/
opaque freeFaultInfo {α : Type} : α → Word

end Config

end Sys2Proof
end

