-- ==== Sys2Proof/Machine/State.lean ====
section
/-! DEFINITION. The state: the working state of 10_state.md R17, the synchronizer of R33 to R36, the parameters of 00_scope.md R7
and the supplies of free values; the reasons a step can stop; the state after reset (R39, 70_reset_and_hazards.md R151). -/

namespace Sys2Proof.Machine

/-- `status` (10_state.md R30). -/
inductive Status where
  | active
  | terminated
  deriving DecidableEq, Repr

/-- The fault codes 1 to 10 of 60_exceptions.md R112, in that order. Code 0 is the absence of a record. -/
inductive FaultCode where
  | unknownOpcode
  | stackUnderflow
  | loadTooLarge
  /-- Reserved and never raised (R118). -/
  | linkFailure
  | memoryOutOfRange
  | stackOverflow
  | indexOverflow
  | fontDigitOutOfRange
  | keyIndexOutOfRange
  | signalOverflow
  deriving DecidableEq, Repr

/-- A FaultRecord (10_state.md R31, 60_exceptions.md R112). -/
structure FaultRecord where
  code : FaultCode
  pc : Word
  info : Word
  deriving DecidableEq, Repr

/-- The four signals (60_exceptions.md R121). -/
inductive Signal where
  | setKeys (mask : Word)
  | decrementDelayTimer
  | decrementSoundTimer
  | terminate
  deriving DecidableEq, Repr

/-- `fast_phase` (10_state.md R34, 60_exceptions.md R128). -/
inductive FastPhase where
  | drain
  | publish
  deriving DecidableEq, Repr

/-- `slow_phase` (10_state.md R36, 60_exceptions.md R133). -/
inductive SlowPhase where
  | s1
  | s2
  | s3
  | s4a
  | s4b
  | s5
  | s6
  deriving DecidableEq, Repr

/-- Memory, as the cells that differ from what an unlisted address reads as, addresses strictly rising (log entry 8). -/
abbrev Memory := List Host.Cell

/-- `disp[col][row]`, 64 columns of 32 rows (10_state.md R17, R26). -/
abbrev Display := Vector (Vector Bool 32) 64

/-- The working state: the record of 10_state.md R17. -/
structure MachineState where
  mem : Memory
  v : Vector Byte 16
  i : Word
  pc : Word
  /-- The top is the last element. -/
  stack : List Word
  disp : Display
  dt : Byte
  st : Byte
  keys : Word
  status : Status
  fault : Option FaultRecord
  deriving DecidableEq, Repr

/-- Whose turn it is (60_exceptions.md R150). A run is cut into bursts, each a finite number of steps offered to one domain, the two
domains in turn: that a burst is finite is weak fairness, and that nothing else is known of it is every interleaving (log entry 7). -/
structure Turns where
  /-- The domain the next step is offered to. -/
  agent : Agent
  /-- How many further steps are offered to it before the turn passes. -/
  more : Nat
  /-- The lengths, less one, of the bursts to come. -/
  bursts : Supply Nat
  deriving DecidableEq, Repr

/-- Everything the block holds. -/
structure State where
  /-- The parameters of R7 (log entry 1). -/
  cfg : Params
  /-- The working state (R15, R17). -/
  work : MachineState
  /-- The signal FIFO, head first (R33). -/
  fifo : List Signal
  /-- Sticky: an enqueue found the FIFO full (R34). -/
  fifoOverflow : Bool
  fastPhase : FastPhase
  fastStopped : Bool
  /-- The snapshot slot (R35). -/
  snap : MachineState
  /-- The mask of the last SetKeys sent (R36). -/
  lastKeysSent : Word
  /-- The tone is on; drives `tone_on` (R36, R138). -/
  sounding : Bool
  /-- The snapshot read at S3 (R36). -/
  frameSnap : MachineState
  slowPhase : SlowPhase
  slowStopped : Bool
  /-- `load_error`: the image load failed and neither domain starts (R148, R151). -/
  loadError : Bool
  /-- The model's own: which domain the next steps are offered to (R150; log entries 2 and 7). -/
  turns : Turns
  /-- The model's own: the keypad masks the host presents (R145; log entry 2). -/
  keysIn : Supply Word
  /-- The model's own: the quit requests the host presents (R135; log entry 2). -/
  quitIn : Supply Bool
  /-- The model's own: the bytes of `draw()` (R9; log entry 2). -/
  draws : Supply Byte
  deriving DecidableEq, Repr

/-- Why no step is enabled. Neither reason is an error of the machine: an error of the machine is the fault path of
60_exceptions.md R113, which is a next state. -/
inductive Fault where
  /-- Raised by `step`: both domains have stopped, so the run has ended (R143, 70_reset_and_hazards.md R170). Safe. -/
  | runEnded
  /-- Raised by `step`: the image load failed, so neither domain starts (R117). Safe. -/
  | neverStarted
  deriving DecidableEq, Repr

/-- Why an instruction has no meaning. -/
inductive Refusal where
  /-- Raised by `exec` for an instruction that is not modelled; no arm raises it. Safe. -/
  | notModelled (mnemonic : String)
  deriving DecidableEq, Repr

/-- The working state as constructed, before any image is loaded (R39, R151 step 1). -/
def MachineState.reset : MachineState where
  mem := []
  v := Vector.replicate 16 0
  i := 0
  pc := 0x200
  stack := []
  disp := Vector.replicate 64 (Vector.replicate 32 false)
  dt := 0
  st := 0
  keys := 0
  status := .active
  fault := none

/-- The block after the reset sequence with an empty image, for any parameters (R39, R151). -/
def State.resetWith (p : Params) : State where
  cfg := p
  work := .reset
  fifo := []
  fifoOverflow := false
  fastPhase := .drain
  fastStopped := false
  snap := .reset
  lastKeysSent := 0
  sounding := false
  frameSnap := .reset
  slowPhase := .s1
  slowStopped := false
  loadError := false
  turns := ⟨Config.freeFirst, Config.freeBurst 0, ⟨[], 1⟩⟩
  keysIn := ⟨[], 0⟩
  quitIn := ⟨[], 0⟩
  draws := ⟨[], 0⟩

/-- The block right after reset, with the default parameters of R7 (log entry 4) and no image (log entry 10). -/
def State.reset : State := .resetWith Config.defaults

end Sys2Proof.Machine
end

