-- ==== Sys2Proof/Machine/Ops.lean ====
section
/-! DEFINITION. The named operations over the state: memory (20_memory.md R44 to R48), registers and stack (10_state.md R18 to
R31), draws (00_scope.md R9), the pc (R22, R23) and the fault path (60_exceptions.md R113). Nothing returns from a fault
(R116), so the fault path has no return beside it. -/

namespace Sys2Proof.Machine

/-! ### Memory -/

/-- What an unlisted address reads as: FONT at 0x000 to 0x04F and 0x00 elsewhere (10_state.md R39; log entry 8). -/
def Memory.blank (font : List Byte) (a : Nat) : Byte :=
  if a < Config.fontSize then font.getD a 0 else 0

/-- The byte at `a`. The range check of R44 is made by the caller, on the whole block. -/
def Memory.read (font : List Byte) : Memory → Nat → Byte
  | [], a => Memory.blank font a
  | (k, b) :: rest, a => if a = k then b else Memory.read font rest a

/-- The cells `m` with `v` at `a` put before them, unless `a` reads as `v` unlisted. -/
def Memory.consCell (font : List Byte) (a : Nat) (v : Byte) (m : Memory) : Memory :=
  if v = Memory.blank font a then m else (a, v) :: m

/-- `mem[a] <- v`, keeping the canonical form. -/
def Memory.write (font : List Byte) : Memory → Nat → Byte → Memory
  | [], a, v => Memory.consCell font a v []
  | (k, b) :: rest, a, v =>
    if a < k then Memory.consCell font a v ((k, b) :: rest)
    else if a = k then Memory.consCell font a v rest
    else (k, b) :: Memory.write font rest a v

/-- Byte writes to consecutive addresses in ascending order (R48). -/
def Memory.writeBytes (font : List Byte) : Memory → Nat → List Byte → Memory
  | m, _, [] => m
  | m, a, b :: bs => Memory.writeBytes font (Memory.write font m a b) (a + 1) bs

/-- The canonical form: addresses strictly rising and at most 0xFFF, no cell equal to what its address reads as unlisted. -/
def Memory.wf (font : List Byte) : Memory → Bool
  | [] => true
  | (k, b) :: rest =>
    decide (k < Config.memSize) && decide (b ≠ Memory.blank font k) &&
      (rest.all fun c => decide (k < c.1)) && Memory.wf font rest

/-! ### The working state -/

/-- `mem <- m`. -/
def MachineState.setMem (w : MachineState) (m : Memory) : MachineState := { w with mem := m }

/-- `V[x]` (R18). -/
def MachineState.reg (w : MachineState) (x : Reg) : Byte := w.v.get x.toFin

/-- `V[x] <- b` (R18). -/
def MachineState.setReg (w : MachineState) (x : Reg) (b : Byte) : MachineState :=
  { w with v := w.v.set x.toNat b x.isLt }

/-- `V[k] <- bytes[k]` for each k of the list (42_memory_index.md R99). -/
def MachineState.setRegs (w : MachineState) (bytes : List Byte) : MachineState :=
  { w with v := Vector.ofFn fun k => bytes.getD k.val (w.v.get k) }

/-- V0 to Vx in order (R98). -/
def MachineState.regsUpTo (w : MachineState) (x : Reg) : List Byte := w.v.toList.take (x.toNat + 1)

/-- `I <- a` (R21). -/
def MachineState.setI (w : MachineState) (a : Word) : MachineState := { w with i := a }

/-- `pc <- a` (R22). -/
def MachineState.setPc (w : MachineState) (a : Word) : MachineState := { w with pc := a }

/-- Replaces the call stack (R24). -/
def MachineState.setStack (w : MachineState) (l : List Word) : MachineState := { w with stack := l }

/-- Replaces the display (R26). -/
def MachineState.setDisp (w : MachineState) (d : Display) : MachineState := { w with disp := d }

/-- `DT <- b` (R27). -/
def MachineState.setDt (w : MachineState) (b : Byte) : MachineState := { w with dt := b }

/-- `ST <- b` (R28). -/
def MachineState.setSt (w : MachineState) (b : Byte) : MachineState := { w with st := b }

/-- `keys <- m` (R29). -/
def MachineState.setKeys (w : MachineState) (m : Word) : MachineState := { w with keys := m }

/-- `status <- Terminated`, the only change status has (R30). -/
def MachineState.terminate (w : MachineState) : MachineState := { w with status := .terminated }

/-- `fault <- r` (R31). -/
def MachineState.record (w : MachineState) (r : FaultRecord) : MachineState := { w with fault := some r }

/-! ### The block -/

/-- Replaces the working state. -/
def State.setWork (s : State) (w : MachineState) : State := { s with work := w }

/-- The byte at address `a` of the working state. -/
def State.readByte (s : State) (a : Nat) : Byte := Memory.read s.cfg.font s.work.mem a

/-- The bytes at `a .. a+n-1`, in ascending order (R48). -/
def State.readBytes (s : State) (a n : Nat) : List Byte := (List.range n).map fun k => s.readByte (a + k)

/-- The working state with `bytes` stored from address `a` on (R48). -/
def State.storeBytes (s : State) (a : Nat) (bytes : List Byte) : State :=
  s.setWork (s.work.setMem (Memory.writeBytes s.cfg.font s.work.mem a bytes))

/-- The stack is full: STACK_DEPTH is bounded and reached (R25). -/
def State.stackFull (s : State) : Bool := decide (s.cfg.stackDepth = some s.work.stack.length)

/-- `push(a)` on a stack that is not full (R25). -/
def State.push (s : State) (a : Word) : State := s.setWork (s.work.setStack (s.work.stack ++ [a]))

/-- The entry `pop()` returns: the last one; `none` on an empty stack (R25). -/
def State.top (s : State) : Option Word := s.work.stack.getLast?

/-- The block after `pop()` (R25). -/
def State.popped (s : State) : State := s.setWork (s.work.setStack s.work.stack.dropLast)

/-- `pc <- a`. -/
def State.jump (s : State) (a : Word) : State := s.setWork (s.work.setPc a)

/-- `if c then pc <- pc + 2` (40_control_flow.md R79). -/
def State.skipIf (s : State) (c : Bool) : State := if c then s.jump (s.work.pc + 2) else s

/-! ### Values the model does not choose -/

/-- The next value of a supply: the script's head, or else the free value at the count. -/
def nextValue {α : Type} (free : Nat → α) (q : Supply α) : α := q.script.headD (free q.drawn)

/-- The supply after one value is taken. -/
def afterValue {α : Type} (q : Supply α) : Supply α := ⟨q.script.tail, q.drawn + 1⟩

/-- The byte of the next `draw()` (R9). -/
def State.drawn (s : State) : Byte := nextValue Config.freeByte s.draws

/-- The block after one `draw()`. -/
def State.afterDraw (s : State) : State := { s with draws := afterValue s.draws }

/-! ### The instruction boundary and the fault path -/

/-- Between fetch and execute: the pc has moved past the instruction (R22, 60_exceptions.md R129), and the tick's phase is
already the one it has when the instruction completes (R128; log entry 9). -/
def State.advance (s : State) : State := { s with work := s.work.setPc (s.work.pc + 2), fastPhase := .publish }

/-- What discarding the writes of step 3 comes to, since a fault is checked before any write: the pc is the instruction's own
address again and the phase is still Drain (R10, R113 step 1). -/
def State.retreat (s : State) : State := { s with work := s.work.setPc (s.work.pc - 2), fastPhase := .drain }

/-- The fault path, from the working state of the end of the drain (R113 steps 2 to 5): record the fault at the pc, terminate,
publish, stop the fast domain. -/
def State.takeFault (s : State) (code : FaultCode) (info : Word) : State :=
  { s with
    work := (s.work.record ⟨code, s.work.pc, info⟩).terminate
    snap := (s.work.record ⟨code, s.work.pc, info⟩).terminate
    fastStopped := true }

/-- `raise F(info)` by an executing instruction (R9): its writes are discarded and the fault path runs (R113). -/
def State.raise (s : State) (code : FaultCode) (info : Word) : Host.Outcome State Fault Refusal :=
  .next (s.retreat.takeFault code info)

end Sys2Proof.Machine
end

