-- ==== Sys2Proof/Machine/Signals.lean ====
section
/-! DEFINITION. Signals and the signal FIFO (60_exceptions.md R121 to R127). -/

namespace Sys2Proof.Machine

/-- The kind field of a FIFO entry, bits 17:16 (R121). -/
def Signal.kind : Signal → BitVec 2
  | .setKeys _ => 0b00
  | .decrementDelayTimer => 0b01
  | .decrementSoundTimer => 0b10
  | .terminate => 0b11

/-- The 18-bit FIFO entry `kind ‖ mask` of a signal (R121). The mask is ignored for every kind but SetKeys, so those entries
carry any `ignored` mask. -/
def Signal.toEntry (ignored : Word) : Signal → BitVec 18
  | .setKeys m => (0b00#2 : BitVec 2) ++ m
  | s => s.kind ++ ignored

/-- The signal an 18-bit FIFO entry stands for (R121). -/
def Signal.ofEntry (e : BitVec 18) : Signal :=
  if e.extractLsb' 16 2 = 0b00#2 then .setKeys (e.extractLsb' 0 16)
  else if e.extractLsb' 16 2 = 0b01#2 then .decrementDelayTimer
  else if e.extractLsb' 16 2 = 0b10#2 then .decrementSoundTimer
  else .terminate

/-- `if t > 0 then t - 1`: never below 0 (R125, R126). -/
def decrement (t : Byte) : Byte := if t = 0 then 0 else t - 1

/-- `apply(s)` (R124 to R127). -/
def MachineState.applySignal (w : MachineState) : Signal → MachineState
  | .setKeys m => w.setKeys m
  | .decrementDelayTimer => w.setDt (decrement w.dt)
  | .decrementSoundTimer => w.setSt (decrement w.st)
  | .terminate => w.terminate

/-- The signals of a drain, applied in order (R123). -/
def MachineState.applySignals (w : MachineState) (l : List Signal) : MachineState := l.foldl MachineState.applySignal w

/-- The drain of a FIFO that has not overflowed: the whole FIFO is taken and applied (R123). -/
def State.drain (s : State) : State := { s with work := s.work.applySignals s.fifo, fifo := [] }

/-- The FIFO holds SIGNAL_FIFO_DEPTH entries; never, when it is unbounded (R122). -/
def State.fifoFull (s : State) : Bool := s.cfg.signalFifoDepth.any fun d => decide (d ≤ s.fifo.length)

/-- `enqueue(s)`: into a full FIFO the signal is dropped and the sticky overflow bit set (R122). -/
def State.enqueue (s : State) (g : Signal) : State :=
  if s.fifoFull then { s with fifoOverflow := true } else { s with fifo := s.fifo ++ [g] }

end Sys2Proof.Machine
end

