-- ==== Sys2Proof/Machine/Frame.lean ====
section
/-! DEFINITION. The slow domain: one frame in seven atomic steps (60_exceptions.md R133 to R139). -/

namespace Sys2Proof.Machine

/-- The mask the host presents at the next S1 (R145). -/
def State.sampledKeys (s : State) : Word := nextValue Config.freeKeys s.keysIn

/-- Whether the host requests a quit at the next S2 (R135). -/
def State.sampledQuit (s : State) : Bool := nextValue Config.freeQuit s.quitIn

/-- `if m ≠ last_keys_sent then enqueue(SetKeys(m)); last_keys_sent <- m` (R133; log entry 13 for a full FIFO). -/
def State.sendKeys (s : State) (m : Word) : State :=
  if m = s.lastKeysSent then s else { s.enqueue (.setKeys m) with lastKeysSent := m }

/-- S1: sample the keys (R134). -/
def State.slowS1 (s : State) : State :=
  { s.sendKeys s.sampledKeys with keysIn := afterValue s.keysIn, slowPhase := .s2 }

/-- S2: on a quit request send Terminate and stop (R135). -/
def State.slowS2 (s : State) : State :=
  if s.sampledQuit then { s.enqueue .terminate with quitIn := afterValue s.quitIn, slowStopped := true }
  else { s with quitIn := afterValue s.quitIn, slowPhase := .s3 }

/-- S3: read the snapshot; stop when it shows Terminated (R136). -/
def State.slowS3 (s : State) : State :=
  if s.snap.status = .terminated then { s with frameSnap := s.snap, slowStopped := true }
  else { s with frameSnap := s.snap, slowPhase := .s4a }

/-- S4a: send the delay-timer decrement (R137). -/
def State.slowS4a (s : State) : State := { s.enqueue .decrementDelayTimer with slowPhase := .s4b }

/-- S4b: send the sound-timer decrement (R137). -/
def State.slowS4b (s : State) : State := { s.enqueue .decrementSoundTimer with slowPhase := .s5 }

/-- The tone after S5 (R133, R138): on when ST > 0 and not already sounding, off when ST = 0 and sounding. -/
def State.toneAfterS5 (s : State) : Bool :=
  if 0 < s.frameSnap.st.toNat ∧ ¬ s.sounding then true
  else if s.frameSnap.st.toNat = 0 ∧ s.sounding then false
  else s.sounding

/-- S5: drive the tone (R138). -/
def State.slowS5 (s : State) : State := { s with sounding := s.toneAfterS5, slowPhase := .s6 }

/-- S6: pacing, which changes no state but the phase (R139). -/
def State.slowS6 (s : State) : State := { s with slowPhase := .s1 }

/-- The atomic step of the slow domain that is next (R133). -/
def State.slowStep (s : State) : State :=
  match s.slowPhase with
  | .s1 => s.slowS1
  | .s2 => s.slowS2
  | .s3 => s.slowS3
  | .s4a => s.slowS4a
  | .s4b => s.slowS4b
  | .s5 => s.slowS5
  | .s6 => s.slowS6

end Sys2Proof.Machine
end

