-- ==== Sys2Proof/Machine/Load.lean ====
section
/-! DEFINITION. The image load and the reset sequence (70_reset_and_hazards.md R151, R153). The host loads an image before the
run; the load is no step of the machine (log entry 10). -/

namespace Sys2Proof.Machine

/-- The image fits below the memory ceiling at 0x200: at most 3584 bytes (R153). -/
def imageFits (image : List Byte) : Bool := decide (image.length ≤ Config.memSize - Config.imageBase)

/-- The `info` of LoadTooLarge: the image length, saturated to 0xFFFF (60_exceptions.md R112). -/
def saturatedLength (n : Nat) : Word := BitVec.ofNat 16 (min n 0xFFFF)

/-- Steps 2 and 3 of the reset sequence: the image is written at 0x200 and the snapshot slot and `frame_snap` become copies of
the working state (R39, R151); on LoadTooLarge nothing is written, the fault is recorded, `load_error` is set and neither
domain starts (R117, R151, R153; log entry 6). -/
def State.load (image : List Byte) (s : State) : State :=
  if imageFits image then
    { s.storeBytes Config.imageBase image with
      snap := (s.storeBytes Config.imageBase image).work
      frameSnap := (s.storeBytes Config.imageBase image).work }
  else
    { s with
      work := (s.work.record ⟨.loadTooLarge, 0x200, saturatedLength image.length⟩).terminate
      loadError := true }

/-- The reset sequence of R151 with an image. -/
def State.boot (p : Params) (image : List Byte) : State := (State.resetWith p).load image

end Sys2Proof.Machine
end

