-- ==== Sys2Proof/Machine/Schedule.lean ====
section
/-! DEFINITION. Which domain takes the next step (60_exceptions.md R150): any enabled one, by values the model does not choose, and weakly
fairly: a domain that has not stopped takes a later step. -/

namespace Sys2Proof.Machine

/-- The other domain. -/
def otherAgent : Agent → Agent
  | .fast => .slow
  | .slow => .fast

/-- A domain has a step until it stops (R132, R135, R136), and none after a failed image load (R117). -/
def State.enabled (s : State) : Agent → Bool
  | .fast => !s.loadError && !s.fastStopped
  | .slow => !s.loadError && !s.slowStopped

/-- The domain the next step is offered to. -/
def State.offered (s : State) : Agent := s.turns.agent

/-- The turns after one step is offered: at the end of a burst the turn passes to the other domain, for a burst of free length. -/
def Turns.after (q : Turns) : Turns :=
  match q.more with
  | 0 => ⟨otherAgent q.agent, nextValue Config.freeBurst q.bursts, afterValue q.bursts⟩
  | n + 1 => ⟨q.agent, n, q.bursts⟩

/-- The domain that takes the next step: the one it is offered to, or the other where that one has stopped; `none` when no step
is enabled (log entry 7). -/
def State.mover (s : State) : Option Agent :=
  if s.enabled s.offered then some s.offered
  else if s.enabled (otherAgent s.offered) then some (otherAgent s.offered)
  else none

/-- The block after the turn is taken. -/
def State.afterTurn (s : State) : State := { s with turns := s.turns.after }

end Sys2Proof.Machine
end

