-- ==== Sys2Proof/Syntax.lean ====
section
/-! DEFINITION. The instructions: one constructor for each of the 34 rows of spec/opcode_table.json (30_encoding.md R64),
in the order of the table. Each operand has the type of its encoding field (R61, R62, R63), so every term of `Instr` is the
meaning of exactly one instruction word (R72 counts 43,954 of both) and no term is ill-formed. -/

namespace Sys2Proof

/-- The catalog of operations (30_encoding.md R64); the names are those of the decoder of R65. -/
inductive Instr where
  /-- 00E0 CLS (43_display.md R101). -/
  | cls
  /-- 00EE RET, ExitSubroutine (40_control_flow.md R78). -/
  | ret
  /-- 1NNN JP nnn (R75). -/
  | jp (nnn : Addr)
  /-- 2NNN CALL nnn, EnterSubroutine (R77). -/
  | call (nnn : Addr)
  /-- 3XNN SE Vx, nn (R79). -/
  | seImm (x : Reg) (nn : Byte)
  /-- 4XNN SNE Vx, nn (R80). -/
  | sneImm (x : Reg) (nn : Byte)
  /-- 5XY0 SE Vx, Vy, SkipIfRegisterEqual (R81). -/
  | seReg (x y : Reg)
  /-- 6XNN LD Vx, nn (41_register_alu.md R83). -/
  | ldImm (x : Reg) (nn : Byte)
  /-- 7XNN ADD Vx, nn, AddRegister (R84). -/
  | addImm (x : Reg) (nn : Byte)
  /-- 8XY0 LD Vx, Vy (R86). -/
  | ldReg (x y : Reg)
  /-- 8XY1 OR Vx, Vy (R87). -/
  | orReg (x y : Reg)
  /-- 8XY2 AND Vx, Vy (R88). -/
  | andReg (x y : Reg)
  /-- 8XY3 XOR Vx, Vy (R89). -/
  | xorReg (x y : Reg)
  /-- 8XY4 ADD Vx, Vy (R90). -/
  | addReg (x y : Reg)
  /-- 8XY5 SUB Vx, Vy (R91). -/
  | sub (x y : Reg)
  /-- 8XY6 SHR Vx, Vy, ShiftRight (R93). -/
  | shr (x y : Reg)
  /-- 8XY7 SUBN Vx, Vy (R92). -/
  | subn (x y : Reg)
  /-- 8XYE SHL Vx, Vy (R94). -/
  | shl (x y : Reg)
  /-- 9XY0 SNE Vx, Vy, SkipIfRegisterNotEqual (R82). -/
  | sneReg (x y : Reg)
  /-- ANNN LD I, nnn (42_memory_index.md R95). -/
  | ldI (nnn : Addr)
  /-- BNNN JP V0, nnn (R76). -/
  | jpV0 (nnn : Addr)
  /-- CXNN RND Vx, nn (45_timers_random.md R110). -/
  | rnd (x : Reg) (nn : Byte)
  /-- DXYN DRW Vx, Vy, n (R102). -/
  | drw (x y : Reg) (n : Nibble)
  /-- EX9E SKP Vx (44_input.md R104). -/
  | skp (x : Reg)
  /-- EXA1 SKNP Vx (R105). -/
  | sknp (x : Reg)
  /-- FX07 LD Vx, DT (R107). -/
  | ldFromDt (x : Reg)
  /-- FX0A LD Vx, K (R106). -/
  | ldKey (x : Reg)
  /-- FX15 LD DT, Vx (R108). -/
  | ldToDt (x : Reg)
  /-- FX18 LD ST, Vx (R109). -/
  | ldToSt (x : Reg)
  /-- FX1E ADD I, Vx (R96). -/
  | addI (x : Reg)
  /-- FX29 LD F, Vx (R97). -/
  | ldFont (x : Reg)
  /-- FX33 LD B, Vx, SaveBCDConversionToMemory (R100). -/
  | bcd (x : Reg)
  /-- FX55 LD [I], Vx (R98). -/
  | store (x : Reg)
  /-- FX65 LD Vx, [I] (R99). -/
  | load (x : Reg)
  deriving DecidableEq, Repr

end Sys2Proof
end

