-- ==== Sys2Proof/Decode.lean ====
section
/-! DEFINITION. The decoder (30_encoding.md R61, R65, R66), total on any word and any bytes, and after it the encoder, written
from the same table (R64). -/

namespace Sys2Proof

/-- Why bytes decode to no instruction. -/
inductive DecodeError where
  /-- The word is not in the catalog (R65, R72). -/
  | unknownOpcode
  /-- Fewer than the two bytes every instruction has (R59). -/
  | truncated
  deriving DecidableEq, Repr

/-- The primary nibble `op = w[15:12]` (R61). -/
def opField (w : Word) : Nibble := w.extractLsb' 12 4

/-- `x = w[11:8]` (R61). -/
def xField (w : Word) : Reg := w.extractLsb' 8 4

/-- `y = w[7:4]` (R61). -/
def yField (w : Word) : Reg := w.extractLsb' 4 4

/-- `n = w[3:0]` (R61). -/
def nField (w : Word) : Nibble := w.extractLsb' 0 4

/-- `nn = w[7:0]` (R61). -/
def nnField (w : Word) : Byte := w.extractLsb' 0 8

/-- `nnn = w[11:0]` (R61). -/
def nnnField (w : Word) : Addr := w.extractLsb' 0 12

/-- Group 0: only the two whole words of format Z (R63, R65). -/
def decodeGroup0 (w : Word) : Except DecodeError Instr :=
  if w = 0x00E0#16 then .ok .cls
  else if w = 0x00EE#16 then .ok .ret
  else .error .unknownOpcode

/-- Group 8: the function nibble selects the ALU operation (R65). -/
def decodeGroup8 (w : Word) : Except DecodeError Instr :=
  match nField w with
  | 0x0#4 => .ok (.ldReg (xField w) (yField w))
  | 0x1#4 => .ok (.orReg (xField w) (yField w))
  | 0x2#4 => .ok (.andReg (xField w) (yField w))
  | 0x3#4 => .ok (.xorReg (xField w) (yField w))
  | 0x4#4 => .ok (.addReg (xField w) (yField w))
  | 0x5#4 => .ok (.sub (xField w) (yField w))
  | 0x6#4 => .ok (.shr (xField w) (yField w))
  | 0x7#4 => .ok (.subn (xField w) (yField w))
  | 0xE#4 => .ok (.shl (xField w) (yField w))
  | _ => .error .unknownOpcode

/-- Group E: the function byte selects the key test (R65). -/
def decodeGroupE (w : Word) : Except DecodeError Instr :=
  match nnField w with
  | 0x9E#8 => .ok (.skp (xField w))
  | 0xA1#8 => .ok (.sknp (xField w))
  | _ => .error .unknownOpcode

/-- Group F: the function byte selects the operation (R65). -/
def decodeGroupF (w : Word) : Except DecodeError Instr :=
  match nnField w with
  | 0x07#8 => .ok (.ldFromDt (xField w))
  | 0x0A#8 => .ok (.ldKey (xField w))
  | 0x15#8 => .ok (.ldToDt (xField w))
  | 0x18#8 => .ok (.ldToSt (xField w))
  | 0x1E#8 => .ok (.addI (xField w))
  | 0x29#8 => .ok (.ldFont (xField w))
  | 0x33#8 => .ok (.bcd (xField w))
  | 0x55#8 => .ok (.store (xField w))
  | 0x65#8 => .ok (.load (xField w))
  | _ => .error .unknownOpcode

/-- The decoder of R65, a pure function of the word (R66). It ignores no bit (R69). -/
def decode (w : Word) : Except DecodeError Instr :=
  match opField w with
  | 0x0#4 => decodeGroup0 w
  | 0x1#4 => .ok (.jp (nnnField w))
  | 0x2#4 => .ok (.call (nnnField w))
  | 0x3#4 => .ok (.seImm (xField w) (nnField w))
  | 0x4#4 => .ok (.sneImm (xField w) (nnField w))
  | 0x5#4 => if nField w = 0x0#4 then .ok (.seReg (xField w) (yField w)) else .error .unknownOpcode
  | 0x6#4 => .ok (.ldImm (xField w) (nnField w))
  | 0x7#4 => .ok (.addImm (xField w) (nnField w))
  | 0x8#4 => decodeGroup8 w
  | 0x9#4 => if nField w = 0x0#4 then .ok (.sneReg (xField w) (yField w)) else .error .unknownOpcode
  | 0xA#4 => .ok (.ldI (nnnField w))
  | 0xB#4 => .ok (.jpV0 (nnnField w))
  | 0xC#4 => .ok (.rnd (xField w) (nnField w))
  | 0xD#4 => .ok (.drw (xField w) (yField w) (nField w))
  | 0xE#4 => decodeGroupE w
  | _ => decodeGroupF w

/-- The word of two consecutive bytes, the first one high (R60, 20_memory.md R47). -/
def wordOfBytes (hi lo : Byte) : Word := hi ++ lo

/-- The decoder on a byte stream: the instruction and the bytes after it. Every instruction is two bytes long (R59). -/
def decodeBytes : List Byte → Except DecodeError (Instr × List Byte)
  | hi :: lo :: rest =>
    match decode (wordOfBytes hi lo) with
    | .ok i => .ok (i, rest)
    | .error e => .error e
  | _ => .error .truncated

/-- Format A: `oooo nnnn nnnn nnnn` (R63). -/
def formatA (op : Nibble) (nnn : Addr) : Word := op ++ nnn

/-- Format XNN: `oooo xxxx nnnn nnnn` (R63). -/
def formatXNN (op : Nibble) (x : Reg) (nn : Byte) : Word := op ++ x ++ nn

/-- Formats XYF and XYN: `oooo xxxx yyyy ffff` and `oooo xxxx yyyy nnnn` (R63). -/
def formatXYN (op : Nibble) (x y : Reg) (n : Nibble) : Word := op ++ x ++ y ++ n

/-- Format XF: `oooo xxxx ffff ffff` (R63). -/
def formatXF (op : Nibble) (x : Reg) (f : Byte) : Word := op ++ x ++ f

/-- The word of an instruction (R64). -/
def encode : Instr → Word
  | .cls => 0x00E0#16
  | .ret => 0x00EE#16
  | .jp nnn => formatA 0x1 nnn
  | .call nnn => formatA 0x2 nnn
  | .seImm x nn => formatXNN 0x3 x nn
  | .sneImm x nn => formatXNN 0x4 x nn
  | .seReg x y => formatXYN 0x5 x y 0x0
  | .ldImm x nn => formatXNN 0x6 x nn
  | .addImm x nn => formatXNN 0x7 x nn
  | .ldReg x y => formatXYN 0x8 x y 0x0
  | .orReg x y => formatXYN 0x8 x y 0x1
  | .andReg x y => formatXYN 0x8 x y 0x2
  | .xorReg x y => formatXYN 0x8 x y 0x3
  | .addReg x y => formatXYN 0x8 x y 0x4
  | .sub x y => formatXYN 0x8 x y 0x5
  | .shr x y => formatXYN 0x8 x y 0x6
  | .subn x y => formatXYN 0x8 x y 0x7
  | .shl x y => formatXYN 0x8 x y 0xE
  | .sneReg x y => formatXYN 0x9 x y 0x0
  | .ldI nnn => formatA 0xA nnn
  | .jpV0 nnn => formatA 0xB nnn
  | .rnd x nn => formatXNN 0xC x nn
  | .drw x y n => formatXYN 0xD x y n
  | .skp x => formatXF 0xE x 0x9E
  | .sknp x => formatXF 0xE x 0xA1
  | .ldFromDt x => formatXF 0xF x 0x07
  | .ldKey x => formatXF 0xF x 0x0A
  | .ldToDt x => formatXF 0xF x 0x15
  | .ldToSt x => formatXF 0xF x 0x18
  | .addI x => formatXF 0xF x 0x1E
  | .ldFont x => formatXF 0xF x 0x29
  | .bcd x => formatXF 0xF x 0x33
  | .store x => formatXF 0xF x 0x55
  | .load x => formatXF 0xF x 0x65

/-- The two bytes of a word as the hardware stores them, high byte first (R47). -/
def bytesOfWord (w : Word) : List Byte := [w.extractLsb' 8 8, w.extractLsb' 0 8]

/-- The word that a row of spec/opcode_table.json numbers as `w` with `nbits` bits: bits above `nbits` are 0. -/
def tableWord (nbits w : Nat) : Word := BitVec.ofNat 16 (w % 2 ^ nbits)

/-- The host's view of the decoder: the instruction read from the bytes of a table word, laid out high byte first. -/
def decodeTableWord (nbits w : Nat) : Option Instr :=
  match decodeBytes (bytesOfWord (tableWord nbits w)) with
  | .ok (i, _) => some i
  | .error _ => none

end Sys2Proof
end

