-- ==== Sys2Proof/Machine/Operands.lean ====
section
/-! DEFINITION. Operand values: immediates, the source of a shift, the addresses of a block, key indices, font and sprite
operands (30_encoding.md R62, R70; 42_memory_index.md; 43_display.md; 44_input.md). -/

namespace Sys2Proof.Machine

/-- `zext_16(v)` (00_scope.md R8). -/
def zext16 {n : Nat} (v : BitVec n) : Word := v.setWidth 16

/-- What 8XY6 and 8XYE shift: Vy under SHIFT_QUIRK, otherwise Vx (41_register_alu.md R93, R94). -/
def State.shiftSource (s : State) (x y : Reg) : Byte :=
  if s.cfg.shiftQuirk then s.work.reg y else s.work.reg x

/-- The block `a .. a+n-1` has no address above 0xFFF (20_memory.md R44). An empty block has none. -/
def blockInRange (a : Word) (n : Nat) : Bool := decide (n = 0 ∨ a.toNat + n ≤ Config.memSize)

/-- The lowest address above 0xFFF of a block at `a` that overruns: `max(a, 0x1000)` (42_memory_index.md R98). -/
def firstBeyond (a : Word) : Word := if a.toNat < Config.memSize then 0x1000 else a

/-- The value is the index of one of 16 things: `v ≤ 0xF` (R97, 44_input.md R104). -/
def isIndex (v : Byte) : Bool := decide (v.toNat ≤ 0xF)

/-- The address of glyph `d`: `0x000 + 5 * d` (R97). -/
def fontAddress (d : Byte) : Word := 5 * zext16 d

/-- The hundreds, tens and units of a byte, one byte each (R100). -/
def bcdDigits (v : Byte) : List Byte := [v / 100, v / 10 % 10, v % 10]

/-- `keys[k]` for a key index in a byte (R104). -/
def keyPressed (keys : Word) (k : Byte) : Bool := keys.getLsbD k.toNat

/-- The pressed keys, lowest first (R106). -/
def pressedKeys (keys : Word) : List Byte :=
  ((List.range 16).filter fun k => keys.getLsbD k).map fun k => BitVec.ofNat 8 k

/-- The key FX0A stores, by KEY_SELECT; under Any a draw from the pressed keys (R106; log entry 11). -/
def State.selectedKey (s : State) : Byte :=
  match s.cfg.keySelect with
  | .lowest => (pressedKeys s.work.keys).headD 0
  | .any => (pressedKeys s.work.keys).getD (s.drawn.toNat % (pressedKeys s.work.keys).length) 0

/-- The block after FX0A has chosen a key: KEY_SELECT Any takes one draw. -/
def State.afterKeySelect (s : State) : State :=
  match s.cfg.keySelect with
  | .lowest => s
  | .any => s.afterDraw

/-- The start column of a sprite, `V[x] mod 64` (R102). -/
def State.spriteColumn (s : State) (x : Reg) : Nat := (s.work.reg x).toNat % 64

/-- The start row of a sprite, `V[y] mod 32` (R102). -/
def State.spriteRow (s : State) (y : Reg) : Nat := (s.work.reg y).toNat % 32

end Sys2Proof.Machine
end

