-- ==== Sys2Proof/Machine/Flags.lean ====
section
/-! DEFINITION. The flag register VF (10_state.md R19): each flag an instruction computes, and how a result and a flag are
written together (41_register_alu.md R85). -/

namespace Sys2Proof.Machine

/-- VF, the flag register (R19). -/
abbrev vf : Reg := 0xF#4

/-- A flag as the byte VF gets: 1 or 0 (92_eei_decisions.md D9). -/
def flagByte (f : Bool) : Byte := if f then 1 else 0

/-- Carry out of 8 bits: the exact sum exceeds 0xFF (R90). -/
def carryOut (a b : Byte) : Bool := decide (0xFF < a.toNat + b.toNat)

/-- NOT borrow of `a - b`: minuend ≥ subtrahend (R91, R92). -/
def noBorrow (a b : Byte) : Bool := decide (b.toNat ≤ a.toNat)

/-- The bit a right shift moves out: bit 0 (R93). -/
def shiftedOutRight (v : Byte) : Bool := v.getLsbD 0

/-- The bit a left shift moves out: bit 7 (R94). -/
def shiftedOutLeft (v : Byte) : Bool := v.getLsbD 7

/-- What VF holds when it is both destination and flag, by VF_ALIAS_ORDER; under Either a draw from the two (R85; log entry 11). -/
def State.aliasedVf (s : State) (r : Byte) (f : Bool) : Byte :=
  match s.cfg.vfAliasOrder with
  | .flagLast => flagByte f
  | .resultLast => r
  | .either => if s.drawn.getLsbD 0 then flagByte f else r

/-- The block after VF_ALIAS_ORDER is settled: Either takes one draw. -/
def State.afterAlias (s : State) : State :=
  match s.cfg.vfAliasOrder with
  | .either => s.afterDraw
  | _ => s

/-- "write r to V[x] and f to VF" (R85). -/
def State.writeResultAndFlag (s : State) (x : Reg) (r : Byte) (f : Bool) : State :=
  if x = vf then s.afterAlias.setWork (s.work.setReg vf (s.aliasedVf r f))
  else s.setWork ((s.work.setReg x r).setReg vf (flagByte f))

end Sys2Proof.Machine
end

