-- ==== Sys2Proof/Machine/Alu.lean ====
section
/-! DEFINITION. Register, constant and ALU operations (41_register_alu.md R83 to R94). All arithmetic wraps modulo 256. -/

namespace Sys2Proof.Machine

/-- 6XNN LD Vx, nn (R83). -/
def execLdImm (x : Reg) (nn : Byte) (s : State) : Host.Outcome State Fault Refusal :=
  .next (s.setWork (s.work.setReg x nn))

/-- 7XNN ADD Vx, nn: no flag is written (R84). -/
def execAddImm (x : Reg) (nn : Byte) (s : State) : Host.Outcome State Fault Refusal :=
  .next (s.setWork (s.work.setReg x (s.work.reg x + nn)))

/-- 8XY0 LD Vx, Vy (R86). -/
def execLdReg (x y : Reg) (s : State) : Host.Outcome State Fault Refusal :=
  .next (s.setWork (s.work.setReg x (s.work.reg y)))

/-- 8XY1 OR Vx, Vy: no flag is written (R87). -/
def execOrReg (x y : Reg) (s : State) : Host.Outcome State Fault Refusal :=
  .next (s.setWork (s.work.setReg x (s.work.reg x ||| s.work.reg y)))

/-- 8XY2 AND Vx, Vy: no flag is written (R88). -/
def execAndReg (x y : Reg) (s : State) : Host.Outcome State Fault Refusal :=
  .next (s.setWork (s.work.setReg x (s.work.reg x &&& s.work.reg y)))

/-- 8XY3 XOR Vx, Vy: no flag is written (R89). -/
def execXorReg (x y : Reg) (s : State) : Host.Outcome State Fault Refusal :=
  .next (s.setWork (s.work.setReg x (s.work.reg x ^^^ s.work.reg y)))

/-- 8XY4 ADD Vx, Vy, with the carry in VF (R90). -/
def execAddReg (x y : Reg) (s : State) : Host.Outcome State Fault Refusal :=
  .next (s.writeResultAndFlag x (s.work.reg x + s.work.reg y) (carryOut (s.work.reg x) (s.work.reg y)))

/-- 8XY5 SUB Vx, Vy, with NOT borrow in VF (R91). -/
def execSub (x y : Reg) (s : State) : Host.Outcome State Fault Refusal :=
  .next (s.writeResultAndFlag x (s.work.reg x - s.work.reg y) (noBorrow (s.work.reg x) (s.work.reg y)))

/-- 8XY7 SUBN Vx, Vy: Vy − Vx, with NOT borrow in VF (R92). -/
def execSubn (x y : Reg) (s : State) : Host.Outcome State Fault Refusal :=
  .next (s.writeResultAndFlag x (s.work.reg y - s.work.reg x) (noBorrow (s.work.reg y) (s.work.reg x)))

/-- 8XY6 SHR Vx, Vy, with the bit shifted out in VF (R93). -/
def execShr (x y : Reg) (s : State) : Host.Outcome State Fault Refusal :=
  .next (s.writeResultAndFlag x (s.shiftSource x y >>> 1) (shiftedOutRight (s.shiftSource x y)))

/-- 8XYE SHL Vx, Vy, with the bit shifted out in VF (R94). -/
def execShl (x y : Reg) (s : State) : Host.Outcome State Fault Refusal :=
  .next (s.writeResultAndFlag x (s.shiftSource x y <<< 1) (shiftedOutLeft (s.shiftSource x y)))

end Sys2Proof.Machine
end

