-- ==== Sys2Proof/Machine/Control.lean ====
section
/-! DEFINITION. Control flow (40_control_flow.md R75 to R82). The pc of `s` is already the instruction's address plus 2. -/

namespace Sys2Proof.Machine

/-- 1NNN JP nnn (R75). -/
def execJp (nnn : Addr) (s : State) : Host.Outcome State Fault Refusal := .next (s.jump (zext16 nnn))

/-- BNNN JP V0, nnn: the sum is not reduced to 12 bits (R76). -/
def execJpV0 (nnn : Addr) (s : State) : Host.Outcome State Fault Refusal :=
  .next (s.jump (zext16 nnn + zext16 (s.work.reg 0)))

/-- The `info` of a StackOverflow: STACK_DEPTH (60_exceptions.md R112), free where it does not fit in 16 bits (log entry 5). -/
def depthInfo (d : Nat) : Word := if d ≤ 0xFFFF then BitVec.ofNat 16 d else Config.freeDepthInfo d

/-- 2NNN CALL nnn (R77). A stack that is full holds STACK_DEPTH entries. -/
def execCall (nnn : Addr) (s : State) : Host.Outcome State Fault Refusal :=
  if s.stackFull then s.raise .stackOverflow (depthInfo s.work.stack.length)
  else .next ((s.push s.work.pc).jump (zext16 nnn))

/-- 00EE RET (R78). -/
def execRet (s : State) : Host.Outcome State Fault Refusal :=
  match s.top with
  | none => s.raise .stackUnderflow 0
  | some a => .next (s.popped.jump a)

/-- 3XNN SE Vx, nn (R79). -/
def execSeImm (x : Reg) (nn : Byte) (s : State) : Host.Outcome State Fault Refusal :=
  .next (s.skipIf (s.work.reg x = nn))

/-- 4XNN SNE Vx, nn (R80). -/
def execSneImm (x : Reg) (nn : Byte) (s : State) : Host.Outcome State Fault Refusal :=
  .next (s.skipIf (s.work.reg x ≠ nn))

/-- 5XY0 SE Vx, Vy (R81). -/
def execSeReg (x y : Reg) (s : State) : Host.Outcome State Fault Refusal :=
  .next (s.skipIf (s.work.reg x = s.work.reg y))

/-- 9XY0 SNE Vx, Vy (R82). -/
def execSneReg (x y : Reg) (s : State) : Host.Outcome State Fault Refusal :=
  .next (s.skipIf (s.work.reg x ≠ s.work.reg y))

end Sys2Proof.Machine
end

