-- ==== Sys2Proof/Machine/Index.lean ====
section
/-! DEFINITION. Memory and index operations (42_memory_index.md R95 to R100). A block access checks every address before it
writes anything, and never changes I. -/

namespace Sys2Proof.Machine

/-- ANNN LD I, nnn (R95). -/
def execLdI (nnn : Addr) (s : State) : Host.Outcome State Fault Refusal :=
  .next (s.setWork (s.work.setI (zext16 nnn)))

/-- FX1E ADD I, Vx: no flag is written; a sum above 0xFFFF raises IndexOverflow, which records I (R96, 60_exceptions.md R112). -/
def execAddI (x : Reg) (s : State) : Host.Outcome State Fault Refusal :=
  if 0xFFFF < s.work.i.toNat + (s.work.reg x).toNat then s.raise .indexOverflow s.work.i
  else .next (s.setWork (s.work.setI (s.work.i + zext16 (s.work.reg x))))

/-- FX29 LD F, Vx (R97). -/
def execLdFont (x : Reg) (s : State) : Host.Outcome State Fault Refusal :=
  if isIndex (s.work.reg x) then .next (s.setWork (s.work.setI (fontAddress (s.work.reg x))))
  else s.raise .fontDigitOutOfRange (zext16 (s.work.reg x))

/-- FX55 LD [I], Vx (R98). -/
def execStore (x : Reg) (s : State) : Host.Outcome State Fault Refusal :=
  if blockInRange s.work.i (x.toNat + 1) then .next (s.storeBytes s.work.i.toNat (s.work.regsUpTo x))
  else s.raise .memoryOutOfRange (firstBeyond s.work.i)

/-- FX65 LD Vx, [I] (R99). -/
def execLoad (x : Reg) (s : State) : Host.Outcome State Fault Refusal :=
  if blockInRange s.work.i (x.toNat + 1) then
    .next (s.setWork (s.work.setRegs (s.readBytes s.work.i.toNat (x.toNat + 1))))
  else s.raise .memoryOutOfRange (firstBeyond s.work.i)

/-- FX33 LD B, Vx (R100). -/
def execBcd (x : Reg) (s : State) : Host.Outcome State Fault Refusal :=
  if blockInRange s.work.i 3 then .next (s.storeBytes s.work.i.toNat (bcdDigits (s.work.reg x)))
  else s.raise .memoryOutOfRange (firstBeyond s.work.i)

end Sys2Proof.Machine
end

