-- ==== Sys2Proof/Machine/Input.lean ====
section
/-! DEFINITION. Input operations (44_input.md R104 to R106). `keys` is the mask drained at or before the start of this tick. -/

namespace Sys2Proof.Machine

/-- EX9E SKP Vx (R104). -/
def execSkp (x : Reg) (s : State) : Host.Outcome State Fault Refusal :=
  if isIndex (s.work.reg x) then .next (s.skipIf (keyPressed s.work.keys (s.work.reg x)))
  else s.raise .keyIndexOutOfRange (zext16 (s.work.reg x))

/-- EXA1 SKNP Vx (R105). -/
def execSknp (x : Reg) (s : State) : Host.Outcome State Fault Refusal :=
  if isIndex (s.work.reg x) then .next (s.skipIf (!keyPressed s.work.keys (s.work.reg x)))
  else s.raise .keyIndexOutOfRange (zext16 (s.work.reg x))

/-- FX0A LD Vx, K: with no key pressed the pc goes back to this instruction, a spin and no suspend (R106, R157). -/
def execLdKey (x : Reg) (s : State) : Host.Outcome State Fault Refusal :=
  if s.work.keys = 0 then .next (s.jump (s.work.pc - 2))
  else .next (s.afterKeySelect.setWork (s.work.setReg x s.selectedKey))

end Sys2Proof.Machine
end

