-- ==== Sys2Proof/Machine/Screen.lean ====
section
/-! DEFINITION. Display operations (43_display.md R101 to R103). -/

namespace Sys2Proof.Machine

/-- The cleared display (10_state.md R26). -/
def Display.clear : Display := Vector.replicate 64 (Vector.replicate 32 false)

/-- `disp[col][row]`; false outside the grid. -/
def Display.pixel (d : Display) (col row : Nat) : Bool :=
  if h : col < 64 ∧ row < 32 then d[col][row] else false

/-- `disp[col][row] <- not disp[col][row]`; nothing outside the grid. -/
def Display.toggle (d : Display) (col row : Nat) : Display :=
  if h : col < 64 ∧ row < 32 then d.set col (d[col].set row (!d[col][row])) else d

/-- A display and the collision flag, while a sprite is drawn. -/
structure Canvas where
  disp : Display
  collision : Bool
  deriving DecidableEq, Repr

/-- One bit of a sprite at (col, row): a pixel outside the grid is clipped, a 0 bit leaves its pixel, a 1 bit toggles it, and
set to unset is a collision (R102, R103). -/
def Canvas.plot (c : Canvas) (col row : Nat) (bit : Bool) : Canvas :=
  if bit ∧ col ≤ 63 ∧ row ≤ 31 then ⟨c.disp.toggle col row, c.collision || c.disp.pixel col row⟩ else c

/-- One row of a sprite, leftmost bit first. -/
def Canvas.plotRow (row : Nat) : Canvas → Nat → List Bool → Canvas
  | c, _, [] => c
  | c, col, bit :: bits => Canvas.plotRow row (c.plot col row bit) (col + 1) bits

/-- The bits of a sprite byte, bit 7 first: the most significant bit is leftmost (R103). -/
def spriteBits (b : Byte) : List Bool := (List.range 8).map fun k => b.getLsbD (7 - k)

/-- The rows of a sprite from (col, row) down (R102). -/
def Canvas.plotRows (col : Nat) : Canvas → Nat → List Byte → Canvas
  | c, _, [] => c
  | c, row, b :: bs => Canvas.plotRows col (Canvas.plotRow row c col (spriteBits b)) (row + 1) bs

/-- The sprite of `n` bytes at I drawn at (V[x] mod 64, V[y] mod 32), all operands read before VF is written (R102). -/
def State.spriteCanvas (s : State) (x y : Reg) (n : Nat) : Canvas :=
  Canvas.plotRows (s.spriteColumn x) ⟨s.work.disp, false⟩ (s.spriteRow y) (s.readBytes s.work.i.toNat n)

/-- 00E0 CLS (R101). -/
def execCls (s : State) : Host.Outcome State Fault Refusal :=
  .next (s.setWork (s.work.setDisp Display.clear))

/-- DXYN DRW Vx, Vy, n: all n bytes are checked, clipped rows included (R102). -/
def execDrw (x y : Reg) (n : Nibble) (s : State) : Host.Outcome State Fault Refusal :=
  if blockInRange s.work.i n.toNat then
    .next (s.setWork ((s.work.setDisp (s.spriteCanvas x y n.toNat).disp).setReg vf (flagByte (s.spriteCanvas x y n.toNat).collision)))
  else s.raise .memoryOutOfRange (firstBeyond s.work.i)

end Sys2Proof.Machine
end

