-- ==== Sys2Proof/Machine/Timers.lean ====
section
/-! DEFINITION. Timer and random operations (45_timers_random.md R107 to R110). Decrements come only from drained signals. -/

namespace Sys2Proof.Machine

/-- FX07 LD Vx, DT (R107). -/
def execLdFromDt (x : Reg) (s : State) : Host.Outcome State Fault Refusal :=
  .next (s.setWork (s.work.setReg x s.work.dt))

/-- FX15 LD DT, Vx (R108). -/
def execLdToDt (x : Reg) (s : State) : Host.Outcome State Fault Refusal :=
  .next (s.setWork (s.work.setDt (s.work.reg x)))

/-- FX18 LD ST, Vx (R109). -/
def execLdToSt (x : Reg) (s : State) : Host.Outcome State Fault Refusal :=
  .next (s.setWork (s.work.setSt (s.work.reg x)))

/-- CXNN RND Vx, nn: a free byte, masked (R110). -/
def execRnd (x : Reg) (nn : Byte) (s : State) : Host.Outcome State Fault Refusal :=
  .next (s.afterDraw.setWork (s.work.setReg x (s.drawn &&& nn)))

end Sys2Proof.Machine
end

