-- ==== Sys2Proof/Machine/Tick.lean ====
section
/-! DEFINITION. The fast domain: one tick in two atomic steps (60_exceptions.md R128 to R132). -/

namespace Sys2Proof.Machine

/-- The word at the pc, high byte first (20_memory.md R47). -/
def State.fetchWord (s : State) : Word :=
  wordOfBytes (s.readByte s.work.pc.toNat) (s.readByte (s.work.pc.toNat + 1))

/-- The instruction cycle, step 3 of a tick, with its faults in the order of R115 (R129). -/
def State.instructionCycle (s : State) : Host.Outcome State Fault Refusal :=
  if blockInRange s.work.pc 2 then
    match decode s.fetchWord with
    | .ok i => exec i s.advance
    | .error _ => .next (s.takeFault .unknownOpcode s.fetchWord)
  else .next (s.takeFault .memoryOutOfRange (firstBeyond s.work.pc))

/-- `fast_stopped <- true` (R132). -/
def State.stopFast (s : State) : State := { s with fastStopped := true }

/-- The first atomic step of a tick: drain, check status, execute one instruction (R128). -/
def State.tickDrainExecute (s : State) : Host.Outcome State Fault Refusal :=
  if s.fifoOverflow then .next (s.takeFault .signalOverflow 0)
  else if s.drain.work.status = .terminated then .next s.drain.stopFast
  else s.drain.instructionCycle

/-- The second atomic step of a tick: publish, and the next tick's Drain phase (R128, R130). -/
def State.tickPublish (s : State) : State := { s with snap := s.work, fastPhase := .drain }

/-- The atomic step of the fast domain that is next (R128). -/
def State.fastStep (s : State) : Host.Outcome State Fault Refusal :=
  match s.fastPhase with
  | .drain => s.tickDrainExecute
  | .publish => .next s.tickPublish

end Sys2Proof.Machine
end

