-- ==== Sys2Proof/Machine/Step.lean ====
section
/-! DEFINITION. One step of the block: one atomic step of one domain (60_exceptions.md R150). -/

namespace Sys2Proof.Machine

/-- One step: the domain whose turn it is takes its next atomic step. Where no step is enabled the run never started (R117) or
has ended (R143, R170). -/
def step (s : State) : Host.Outcome State Fault Refusal :=
  match s.mover with
  | some .fast => s.afterTurn.fastStep
  | some .slow => .next s.afterTurn.slowStep
  | none => .fault (if s.loadError then .neverStarted else .runEnded)

/-- Where the next fetch can be: the pc, or 0x200 if no word fits at the pc. -/
def State.fetchAddress (s : State) : Word := if blockInRange s.work.pc 2 then s.work.pc else 0x200

/-- `s` with the word `w` of an opcode-table row where the next step fetches: the word's bytes at the pc, and all it takes for the
very next step to be a tick that fetches it (the fast domain running, in phase Drain, next in turn, and nothing pending that
would terminate it). It stands for the image load (log entry 10). -/
def State.withFetchWord (s : State) (nbits w : Nat) : State :=
  { s with
    work :=
      { s.work with
        mem := Memory.writeBytes s.cfg.font s.work.mem s.fetchAddress.toNat (bytesOfWord (tableWord nbits w))
        pc := s.fetchAddress
        status := .active }
    fifo := s.fifo.filter fun g => decide (g ≠ .terminate)
    fifoOverflow := false
    fastPhase := .drain
    fastStopped := false
    loadError := false
    turns := { s.turns with agent := .fast } }

end Sys2Proof.Machine
end

