-- ==== Sys2Proof/Machine/Ports.lean ====
section
/-! DEFINITION. The block's output ports, as functions of the state (60_exceptions.md R148; log entry 12 for what is left out). -/

namespace Sys2Proof.Machine

/-- The numeric code of a fault (R112). -/
def FaultCode.number : FaultCode → BitVec 4
  | .unknownOpcode => 1
  | .stackUnderflow => 2
  | .loadTooLarge => 3
  | .linkFailure => 4
  | .memoryOutOfRange => 5
  | .stackOverflow => 6
  | .indexOverflow => 7
  | .fontDigitOutOfRange => 8
  | .keyIndexOutOfRange => 9
  | .signalOverflow => 10

/-- `fault_code`; 0 is none (R148). -/
def State.faultCodePort (s : State) : BitVec 4 :=
  match s.work.fault with
  | none => 0
  | some r => r.code.number

/-- `fault_pc`: the recorded pc; a free value without a fault, where R112 gives none (log entry 12). -/
def State.faultPcPort (s : State) : Word :=
  match s.work.fault with
  | none => Config.freeFaultPc s
  | some r => r.pc

/-- `fault_info`: the recorded info; a free value without a fault, where R112 gives none (log entry 12). -/
def State.faultInfoPort (s : State) : Word :=
  match s.work.fault with
  | none => Config.freeFaultInfo s
  | some r => r.info

/-- `frame_out`: bit `row·64 + col` is `disp[col][row]` of the snapshot read at S3 (R146). -/
def State.frameOutPort (s : State) : BitVec 2048 :=
  BitVec.ofFnLE fun k : Fin 2048 => Display.pixel s.frameSnap.disp (k.val % 64) (k.val / 64)

/-- `frame_strobe`: high after S3, once `frame_out` is the frame's display, until the slow domain's next step (R148; log entry 12 for
the length of the pulse). S3 is done where the next phase is S4a, and where the domain has stopped at S3 (R133, R136). -/
def State.frameStrobePort (s : State) : Bool :=
  decide (s.slowPhase = .s4a ∨ s.slowPhase = .s3 ∧ s.slowStopped = true)

/-- `tone_on`, the level `sounding` drives (R138, R147). -/
def State.toneOnPort (s : State) : Bool := s.sounding

/-- `load_error` (R148). -/
def State.loadErrorPort (s : State) : Bool := s.loadError

/-- `fast_stopped` (R148). -/
def State.fastStoppedPort (s : State) : Bool := s.fastStopped

/-- `slow_stopped` (R148). -/
def State.slowStoppedPort (s : State) : Bool := s.slowStopped

end Sys2Proof.Machine
end

