-- ==== Sys2Proof/WellFormed.lean ====
section
/-! DEFINITION. Well-formedness. An instruction needs no check: each operand of `Instr` has the type of its encoding field, so
every value of it is a legal operand (30_encoding.md R62). What an implementation supplies as plain data does: the
parameters of 00_scope.md R7. -/

namespace Sys2Proof

/-- IPS is a positive rate (R7), held as a whole number (log entry 15). -/
def Params.ipsOk (p : Params) : Bool := decide (0 < p.ips)

/-- STACK_DEPTH is a positive natural number, or unbounded (R7). -/
def Params.stackDepthOk (p : Params) : Bool := p.stackDepth.all fun d => decide (0 < d)

/-- SIGNAL_FIFO_DEPTH is a positive natural number, or unbounded (R7). -/
def Params.signalFifoDepthOk (p : Params) : Bool := p.signalFifoDepth.all fun d => decide (0 < d)

/-- FONT is 80 bytes (R7). -/
def Params.fontOk (p : Params) : Bool := decide (p.font.length = Config.fontSize)

/-- All of R7's conditions on the parameters. -/
def Params.wellFormed (p : Params) : Bool :=
  p.ipsOk && p.stackDepthOk && p.signalFifoDepthOk && p.fontOk

end Sys2Proof
end

