-- ==== Sys2Proof/Safety.lean ====
section
/-! DEFINITION. The terms claims are stated in: what a run is and how it ends, the invariants of the block, the frame of an
instruction, and what one domain can see of the other. -/

namespace Sys2Proof.Machine

/-! ### Runs -/

/-- The run has ended: both domains have stopped (70_reset_and_hazards.md R170). -/
def State.ended (s : State) : Prop := s.fastStopped = true ∧ s.slowStopped = true

/-- The run ended well: it has ended and no fault is recorded (R170). A faulted state is never a good end. -/
def State.endedWell (s : State) : Prop := s.ended ∧ s.work.fault = none

/-- `n` steps; `none` where a step is not enabled. -/
def State.after : Nat → State → Option State
  | 0, s => some s
  | n + 1, s =>
    match step s with
    | .next t => State.after n t
    | _ => none

/-- Weak fairness of the run from `s` (60_exceptions.md R150): wherever it has come to, a domain that has not stopped takes a later
step. -/
def State.fairRun (s : State) : Prop :=
  ∀ (a : Agent) (n : Nat) (t : State), s.after n = some t → t.enabled a = true →
    ∃ k u, t.after k = some u ∧ u.mover = some a

/-! ### Encoding -/

/-- The word of the instruction is `w`, and `w` decodes to it: the Encoding line of an instruction's rule. -/
def hasWord (i : Instr) (w : Word) : Prop := encode i = w ∧ decode w = .ok i

/-! ### Frames: what an instruction changes and nothing else -/

/-- Every byte of memory reads as before. -/
def sameBytes (s t : State) : Prop := ∀ a, t.readByte a = s.readByte a

/-- Every byte of memory outside the `n` bytes at `a` reads as before. -/
def sameBytesOutside (a n : Nat) (s t : State) : Prop := ∀ b, b < a ∨ a + n ≤ b → t.readByte b = s.readByte b

/-- Every V register but Vx is as before. -/
def sameRegsBut (x : Reg) (s t : State) : Prop := ∀ y, y ≠ x → t.work.reg y = s.work.reg y

/-- Nothing but the V registers may differ. -/
def onlyRegs (s t : State) : Prop := t = { s with work := { s.work with v := t.work.v } } ∧ sameBytes s t

/-- Nothing but the V registers and the supply of draws may differ. -/
def onlyRegsAndDraws (s t : State) : Prop :=
  t = { s with work := { s.work with v := t.work.v }, draws := t.draws } ∧ sameBytes s t

/-- Nothing but the pc may differ. -/
def onlyPc (s t : State) : Prop := t = { s with work := { s.work with pc := t.work.pc } } ∧ sameBytes s t

/-- Nothing but the pc and the call stack may differ. -/
def onlyPcAndStack (s t : State) : Prop :=
  t = { s with work := { s.work with pc := t.work.pc, stack := t.work.stack } } ∧ sameBytes s t

/-- Nothing but I may differ. -/
def onlyI (s t : State) : Prop := t = { s with work := { s.work with i := t.work.i } } ∧ sameBytes s t

/-- Nothing but the delay timer may differ. -/
def onlyDt (s t : State) : Prop := t = { s with work := { s.work with dt := t.work.dt } } ∧ sameBytes s t

/-- Nothing but the sound timer may differ. -/
def onlySt (s t : State) : Prop := t = { s with work := { s.work with st := t.work.st } } ∧ sameBytes s t

/-- Nothing but the display may differ. -/
def onlyDisp (s t : State) : Prop := t = { s with work := { s.work with disp := t.work.disp } } ∧ sameBytes s t

/-- Nothing but the display and the V registers may differ. -/
def onlyDispAndRegs (s t : State) : Prop :=
  t = { s with work := { s.work with disp := t.work.disp, v := t.work.v } } ∧ sameBytes s t

/-- Nothing but memory may differ. -/
def onlyMem (s t : State) : Prop := t = { s with work := { s.work with mem := t.work.mem } }

/-- The instruction completes, leaves `b` in Vx, and changes nothing else. -/
def writesReg (i : Instr) (s : State) (x : Reg) (b : Byte) : Prop :=
  ∃ t, exec i s = .next t ∧ t.work.reg x = b ∧ sameRegsBut x s t ∧ onlyRegs s t

/-- The instruction completes, leaves `r` in Vx and the flag `f` in VF, and changes nothing else; for x ≠ F. -/
def writesRegAndFlag (i : Instr) (s : State) (x : Reg) (r f : Byte) : Prop :=
  ∃ t, exec i s = .next t ∧ t.work.reg x = r ∧ t.work.reg 0xF#4 = f ∧
    (∀ y, y ≠ x → y ≠ 0xF#4 → t.work.reg y = s.work.reg y) ∧ onlyRegs s t

/-- The instruction completes with the result `r` and the flag `f` both bound for VF (41_register_alu.md R85): the flag last, the
result last, or, under Either, one of the two by a draw, with each of the two admitted. -/
def writesVfByOrder (i : Instr) (s : State) (r f : Byte) : Prop :=
  (s.cfg.vfAliasOrder = .flagLast → writesReg i s 0xF#4 f) ∧
  (s.cfg.vfAliasOrder = .resultLast → writesReg i s 0xF#4 r) ∧
  (s.cfg.vfAliasOrder = .either →
    (∃ t, exec i s = .next t ∧ (t.work.reg 0xF#4 = r ∨ t.work.reg 0xF#4 = f) ∧ sameRegsBut 0xF#4 s t ∧
      onlyRegsAndDraws s t) ∧
    ∀ b, b = r ∨ b = f → ∃ q t, exec i { s with draws := q } = .next t ∧ t.work.reg 0xF#4 = b)

/-- "write r to V[x] and f to VF", for every x (R85). -/
def writesResultAndFlag (i : Instr) (s : State) (x : Reg) (r f : Byte) : Prop :=
  (x ≠ 0xF#4 → writesRegAndFlag i s x r f) ∧ (x = 0xF#4 → writesVfByOrder i s r f)

/-- The instruction completes, leaves the pc at `a`, and changes nothing else. -/
def leavesPc (i : Instr) (s : State) (a : Word) : Prop := ∃ t, exec i s = .next t ∧ t.work.pc = a ∧ onlyPc s t

/-- The block after its turn is taken and the FIFO drained: what the rest of the tick starts from (60_exceptions.md R123, R128). -/
def State.drained (s : State) : State :=
  { s with turns := s.turns.after, work := s.work.applySignals s.fifo, fifo := [] }

/-- The state a fault leaves from the working state of the end of the drain (60_exceptions.md R113, R114): the record, the status,
the published snapshot and the stop, and nothing else. -/
def faulted (s : State) (code : FaultCode) (info : Word) (t : State) : Prop :=
  t.work = { s.work with status := .terminated, fault := some ⟨code, s.work.pc, info⟩ } ∧
    t = { s with work := t.work, snap := t.work, fastStopped := true } ∧ sameBytes s t

/-- The executing instruction raises the fault: with the pc at `a + 2` and the phase Publish undone, only the fault's effects are
left (R113). -/
def faultsWith (i : Instr) (s : State) (code : FaultCode) (info : Word) : Prop :=
  ∃ t, exec i s = .next t ∧
    faulted { s with work := { s.work with pc := s.work.pc - 2 }, fastPhase := .drain } code info t

/-! ### What each instruction may write (10_state.md R19 to R31, 20_memory.md R42) -/

/-- The instructions that store to memory: FX33 and FX55 (20_memory.md R42). -/
def storesMemory : Instr → Bool
  | .bcd _ | .store _ => true
  | _ => false

/-- The instructions that write I: ANNN, FX1E and FX29 (10_state.md R21). -/
def writesI : Instr → Bool
  | .ldI _ | .addI _ | .ldFont _ => true
  | _ => false

/-- The instructions that push or pop: 2NNN and 00EE (R24). -/
def usesStack : Instr → Bool
  | .call _ | .ret => true
  | _ => false

/-- The instructions that write the display: 00E0 and DXYN (R26). -/
def writesDisplay : Instr → Bool
  | .cls | .drw _ _ _ => true
  | _ => false

/-- The instructions that write VF as a side effect (R19). -/
def writesFlag : Instr → Bool
  | .addReg _ _ | .sub _ _ | .subn _ _ | .shr _ _ | .shl _ _ | .drw _ _ _ => true
  | _ => false

/-- The registers an instruction names as its destination (R19, R20). -/
def isDestination (i : Instr) (y : Reg) : Bool :=
  match i with
  | .ldImm x _ | .addImm x _ | .ldReg x _ | .orReg x _ | .andReg x _ | .xorReg x _ | .addReg x _ | .sub x _ | .shr x _
  | .subn x _ | .shl x _ | .rnd x _ | .ldFromDt x | .ldKey x => decide (y = x)
  | .load x => decide (y ≤ x)
  | _ => false

/-- The one fault each instruction can raise, if it can raise any (60_exceptions.md R115). -/
def ownFault : Instr → Option FaultCode
  | .call _ => some .stackOverflow
  | .ret => some .stackUnderflow
  | .addI _ => some .indexOverflow
  | .ldFont _ => some .fontDigitOutOfRange
  | .skp _ | .sknp _ => some .keyIndexOutOfRange
  | .drw _ _ _ | .store _ | .load _ | .bcd _ => some .memoryOutOfRange
  | _ => none

/-- How an instruction at address `a` leaves the pc when it raises no fault (10_state.md R23): `s` is the state it executes in. -/
def leavesPcAsStated (i : Instr) (a : Word) (s t : State) : Prop :=
  match i with
  | .jp nnn | .call nnn => t.work.pc = BitVec.ofNat 16 nnn.toNat
  | .jpV0 nnn => t.work.pc = BitVec.ofNat 16 (nnn.toNat + (s.work.reg 0).toNat)
  | .ret => s.work.stack.getLast? = some t.work.pc
  | .seImm x nn => t.work.pc = if s.work.reg x = nn then a + 4 else a + 2
  | .sneImm x nn => t.work.pc = if s.work.reg x = nn then a + 2 else a + 4
  | .seReg x y => t.work.pc = if s.work.reg x = s.work.reg y then a + 4 else a + 2
  | .sneReg x y => t.work.pc = if s.work.reg x = s.work.reg y then a + 2 else a + 4
  | .skp x => t.work.pc = if s.work.keys.getLsbD (s.work.reg x).toNat then a + 4 else a + 2
  | .sknp x => t.work.pc = if s.work.keys.getLsbD (s.work.reg x).toNat then a + 2 else a + 4
  | .ldKey _ => t.work.pc = if s.work.keys = 0 then a else a + 2
  | _ => t.work.pc = a + 2

/-! ### Invariants -/

/-- The shape of the data: memories in canonical form, the pc where a step can leave it (10_state.md R23), every stack entry a
call's address plus 2 (40_control_flow.md R78), and the stack and the FIFO within their bounds (R25, 60_exceptions.md R122). -/
structure State.shapeInv (s : State) : Prop where
  memory : Memory.wf s.cfg.font s.work.mem = true
  snapMemory : Memory.wf s.cfg.font s.snap.mem = true
  frameMemory : Memory.wf s.cfg.font s.frameSnap.mem = true
  pc : s.work.pc.toNat ≤ 0x10FE
  stackEntries : ∀ a ∈ s.work.stack, 2 ≤ a.toNat ∧ a.toNat ≤ 0x1000
  stackDepth : ∀ d, s.cfg.stackDepth = some d → s.work.stack.length ≤ d
  fifoDepth : ∀ d, s.cfg.signalFifoDepth = some d → s.fifo.length ≤ d

/-- The life of a run: how status, fault, the stop flags and the snapshot hang together (10_state.md R30, R31, R35;
60_exceptions.md R113, R127, R132, R135, R136, R143). -/
structure State.lifeInv (s : State) : Prop where
  terminatedStops : s.work.status = .terminated → s.fastStopped = true ∨ s.loadError = true
  faultTerminates : s.work.fault ≠ none → s.work.status = .terminated
  faultPublished : s.work.fault ≠ none → s.loadError = false → s.snap = s.work
  snapFresh : s.fastPhase = .drain → s.fastStopped = false → s.loadError = false → s.snap = s.work
  terminateSent : Signal.terminate ∈ s.fifo → s.slowStopped = true
  quitStops : s.work.status = .terminated → s.work.fault = none → s.slowStopped = true
  snapTerminated : s.snap.status = .terminated → s.fastStopped = true ∧ s.snap.fault ≠ none

/-- The phases from the end of S5 to the next S3. -/
def SlowPhase.toneSettled : SlowPhase → Bool
  | .s6 | .s1 | .s2 => true
  | _ => false

/-- The synchronizer: the tone follows the snapshot's sound timer from S5 on (60_exceptions.md R138), and, unless a signal was
dropped, draining the FIFO would leave in `keys` the mask last sent (R124, R134). -/
structure State.syncInv (s : State) : Prop where
  tone : s.slowPhase.toneSettled = true → s.sounding = decide (0 < s.frameSnap.st.toNat)
  keys : s.fifoOverflow = false → (s.work.applySignals s.fifo).keys = s.lastKeysSent

/-! ### The timer cadence (60_exceptions.md R141) -/

/-- How many signals `g` the step from `s` sends, where `g` is sent in the slow phase `p`: one per such step. -/
def State.sends (p : SlowPhase) (s : State) : Nat :=
  if s.mover = some .slow ∧ s.slowPhase = p then 1 else 0

/-- How many signals `g` the step from `s` applies: those it drains. -/
def State.applies (g : Signal) (s : State) : Nat :=
  if s.mover = some .fast ∧ s.fastPhase = .drain ∧ s.fifoOverflow = false then s.fifo.count g else 0

/-- `tally g p s n m t`: some run leads from `s` to `t` with `n` steps of slow phase `p` and `m` applications of `g`. -/
inductive tally (g : Signal) (p : SlowPhase) (s : State) : Nat → Nat → State → Prop where
  | start : tally g p s 0 0 s
  | more {n m : Nat} {t u : State} : tally g p s n m t → step t = .next u →
      tally g p s (n + t.sends p) (m + t.applies g) u

/-! ### What a domain can see -/

/-- The two states agree on all that the fast domain reads or writes (R148: only the FIFO and the snapshot slot cross). -/
def fastAgree (s t : State) : Prop :=
  t = { s with
    lastKeysSent := t.lastKeysSent, sounding := t.sounding, frameSnap := t.frameSnap, slowPhase := t.slowPhase
    slowStopped := t.slowStopped, turns := t.turns, keysIn := t.keysIn, quitIn := t.quitIn }

/-- The two states agree on all that the slow domain reads or writes. -/
def slowAgree (s t : State) : Prop :=
  t = { s with work := t.work, fastPhase := t.fastPhase, fastStopped := t.fastStopped, turns := t.turns, draws := t.draws }

/-! ### The sprite, pixel by pixel (43_display.md R102, R103) -/

/-- Whether the sprite `bytes` at (cx, cy) has a set bit at (col, row): bit `7 - b` of byte `r` is pixel (cx + b, cy + r). -/
def spriteCovers (bytes : List Byte) (cx cy col row : Nat) : Prop :=
  ∃ r b, r < bytes.length ∧ b < 8 ∧ col = cx + b ∧ row = cy + r ∧ (bytes.getD r 0).getLsbD (7 - b) = true

end Sys2Proof.Machine
end

