-- ==== Sys2Proof/Certificates/Slice0/Obligations.lean ====
section
/-! DEFINITION. The statements for the provers: what the numbered rules of spec/ say the machine does. -/

open Sys2Proof Sys2Proof.Machine

/-! ### Encoding -/

/-- Decoding the word of an instruction gives the instruction back, with every operand (30_encoding.md R64, R65). -/
def Obligations.DecodeInvertsEncode : Prop := ∀ i : Instr, decode (encode i) = .ok i

/-- The decoder drops no bit: a word that decodes is the word of its instruction (R69). -/
def Obligations.EncodeInvertsDecode : Prop := ∀ (w : Word) (i : Instr), decode w = .ok i → encode i = w

/-- R67: the source's two example words, and one written-out word of each format of R63. -/
def Obligations.ExampleWordsDecode : Prop :=
  decode 0x8126#16 = .ok (.shr 1 2) ∧ decode 0xF133#16 = .ok (.bcd 1) ∧
  decode 0b0000000011101110#16 = .ok .ret ∧
  decode 0b0010001100000000#16 = .ok (.call 0x300) ∧
  decode 0b0011001101000010#16 = .ok (.seImm 3 0x42) ∧
  decode 0b1001000100100000#16 = .ok (.sneReg 1 2) ∧
  decode 0b1101101010110101#16 = .ok (.drw 0xA 0xB 5) ∧
  decode 0b1111001100011110#16 = .ok (.addI 3)

/-- The words that are UnknownOpcode are exactly those R72 lists by primary nibble, and the decoder rejects for no other reason
(R65, R69, and R72, which the spec marks as derived). -/
def Obligations.UnknownWordsAreTheListedOnes : Prop :=
  ∀ w : Word,
    (decode w = .error .unknownOpcode ↔
      (opField w = 0x0 ∧ w ≠ 0x00E0 ∧ w ≠ 0x00EE) ∨
      (opField w = 0x5 ∧ nField w ≠ 0) ∨
      (opField w = 0x8 ∧ nField w ∈ [0x8#4, 0x9#4, 0xA#4, 0xB#4, 0xC#4, 0xD#4, 0xF#4]) ∨
      (opField w = 0x9 ∧ nField w ≠ 0) ∨
      (opField w = 0xE ∧ nnField w ∉ [0x9E#8, 0xA1#8]) ∨
      (opField w = 0xF ∧
        nnField w ∉ [0x07#8, 0x0A#8, 0x15#8, 0x18#8, 0x1E#8, 0x29#8, 0x33#8, 0x55#8, 0x65#8])) ∧
    ∀ e, decode w = .error e → e = .unknownOpcode

/-- A FIFO entry of 18 bits is `kind ‖ mask`, and stands for its signal whatever mask a kind other than SetKeys carries
(60_exceptions.md R121). -/
def Obligations.SignalEntriesReadBack : Prop :=
  ∀ (ignored m : Word),
    Signal.toEntry ignored (.setKeys m) = 0b00#2 ++ m ∧
    Signal.toEntry ignored .decrementDelayTimer = 0b01#2 ++ ignored ∧
    Signal.toEntry ignored .decrementSoundTimer = 0b10#2 ++ ignored ∧
    Signal.toEntry ignored .terminate = 0b11#2 ++ ignored ∧
    ∀ g : Signal, Signal.ofEntry (Signal.toEntry ignored g) = g

/-! ### One step -/

/-- When the bytes at the pc decode to an instruction, a tick of the fast domain is that instruction executed in the drained state
with the pc moved past it and the phase already Publish (60_exceptions.md R128, R129; log entry 9 for where exec starts). -/
def Obligations.StepRunsDecodedInstruction : Prop :=
  ∀ (s : State) (i : Instr), s.mover = some .fast → s.fastPhase = .drain → s.fifoOverflow = false →
    s.drained.work.status = .active → s.work.pc.toNat ≤ 0xFFE →
    decode (wordOfBytes (s.readByte s.work.pc.toNat) (s.readByte (s.work.pc.toNat + 1))) = .ok i →
    step s = exec i
      { s.drained with
        work := { s.drained.work with pc := s.work.pc + 2 }
        fastPhase := .publish }

/-- The faults of a tick that are not an instruction's own, in the order of R115: the overflowed FIFO, before any signal is
applied; then a terminated block, which stops with no fault and no fetch; then a fetch beyond memory; then an unknown word. That the
FIFO and the sticky bit stay as they were after SignalOverflow is the model's reading of R123 (log entry 13). -/
def Obligations.TickFaultsInOrder : Prop :=
  ∀ s : State, s.mover = some .fast → s.fastPhase = .drain →
    (s.fifoOverflow = true →
      ∃ t, step s = .next t ∧ faulted { s with turns := s.turns.after } .signalOverflow 0 t) ∧
    (s.fifoOverflow = false → s.drained.work.status = .terminated →
      step s = .next { s.drained with fastStopped := true }) ∧
    (s.fifoOverflow = false → s.drained.work.status = .active → 0xFFE < s.work.pc.toNat →
      ∃ t, step s = .next t ∧
        faulted s.drained .memoryOutOfRange (BitVec.ofNat 16 (max s.work.pc.toNat 0x1000)) t) ∧
    (s.fifoOverflow = false → s.drained.work.status = .active → s.work.pc.toNat ≤ 0xFFE →
      ∀ w, w = wordOfBytes (s.readByte s.work.pc.toNat) (s.readByte (s.work.pc.toNat + 1)) →
        decode w = .error .unknownOpcode →
        ∃ t, step s = .next t ∧ faulted s.drained .unknownOpcode w t)

/-- The fault path: a step that records a fault leaves the working state of the end of the drain (for SignalOverflow, of
before the drain) but for the record and the status, publishes it, stops the fast domain, and no step of that domain follows (R113, R114, R123). That the FIFO and the sticky bit stay
as they were after SignalOverflow is the model's reading of R123 (log entry 13). -/
def Obligations.FaultPathKeepsTheDrainedState : Prop :=
  ∀ s t : State, step s = .next t → s.work.fault = none → t.work.fault ≠ none →
    (s.fifoOverflow = true → faulted { s with turns := s.turns.after } .signalOverflow 0 t) ∧
    (s.fifoOverflow = false → ∃ code info, faulted s.drained code info t) ∧
    t.mover ≠ some .fast

/-- Publish replaces the whole snapshot slot by the working state and opens the next tick (R130). -/
def Obligations.PublishCopiesWorkingState : Prop :=
  ∀ s : State, s.mover = some .fast → s.fastPhase = .publish →
    step s = .next { s with turns := s.turns.after, snap := s.work, fastPhase := .drain }

/-- What each signal does to the working state (R124, R125, R126). -/
def Obligations.SignalsApplyAsStated : Prop :=
  ∀ w : MachineState,
    (∀ m, w.applySignal (.setKeys m) = { w with keys := m }) ∧
    w.applySignal .decrementDelayTimer = (if 0 < w.dt.toNat then { w with dt := w.dt - 1 } else w) ∧
    w.applySignal .decrementSoundTimer = (if 0 < w.st.toNat then { w with st := w.st - 1 } else w) ∧
    w.applySignal .terminate = { w with status := .terminated }

/-- A drain of any signals: each timer falls by the number of its decrements and never below 0, `keys` is the last mask sent,
status is Terminated if a Terminate was among them, and nothing else changes (R123 to R127). -/
def Obligations.DrainAppliesEverySignal : Prop :=
  ∀ (w : MachineState) (l : List Signal),
    (w.applySignals l).dt.toNat = w.dt.toNat - l.count .decrementDelayTimer ∧
    (w.applySignals l).st.toNat = w.st.toNat - l.count .decrementSoundTimer ∧
    (∀ m l₁ l₂, l = l₁ ++ .setKeys m :: l₂ → (∀ m', .setKeys m' ∉ l₂) → (w.applySignals l).keys = m) ∧
    ((∀ m, .setKeys m ∉ l) → (w.applySignals l).keys = w.keys) ∧
    ((w.applySignals l).status = .terminated ↔ w.status = .terminated ∨ .terminate ∈ l) ∧
    w.applySignals l =
      { w with
        keys := (w.applySignals l).keys, dt := (w.applySignals l).dt
        st := (w.applySignals l).st, status := (w.applySignals l).status }

/-- An enqueue appends at the tail; a full bounded FIFO drops the signal and sets the sticky bit (R122). -/
def Obligations.EnqueueAppendsOrOverflows : Prop :=
  ∀ (s : State) (g : Signal),
    (s.cfg.signalFifoDepth = none → s.enqueue g = { s with fifo := s.fifo ++ [g] }) ∧
    ∀ d, s.cfg.signalFifoDepth = some d →
      (s.fifo.length < d → s.enqueue g = { s with fifo := s.fifo ++ [g] }) ∧
      (d ≤ s.fifo.length → s.enqueue g = { s with fifoOverflow := true })

/-! ### The slow domain -/

/-- S1 samples a mask, any u16; a changed mask is sent as SetKeys and remembered (R133, R134); that it is remembered even when
the FIFO is full and the signal dropped is the model's reading of R133 (log entry 13). -/
def Obligations.FrameSamplesKeys : Prop :=
  (∀ (s : State) (m : Word), ∃ q, State.sampledKeys { s with keysIn := q } = m) ∧
  ∀ s : State, s.mover = some .slow → s.slowPhase = .s1 →
    ∃ t, step s = .next t ∧
      t = { s with
        turns := s.turns.after, keysIn := afterValue s.keysIn, slowPhase := .s2
        lastKeysSent := s.sampledKeys, fifo := t.fifo, fifoOverflow := t.fifoOverflow } ∧
      (s.sampledKeys = s.lastKeysSent → t.fifo = s.fifo ∧ t.fifoOverflow = s.fifoOverflow) ∧
      (s.sampledKeys ≠ s.lastKeysSent → s.fifoFull = false →
        t.fifo = s.fifo ++ [.setKeys s.sampledKeys] ∧ t.fifoOverflow = s.fifoOverflow) ∧
      (s.sampledKeys ≠ s.lastKeysSent → s.fifoFull = true → t.fifo = s.fifo ∧ t.fifoOverflow = true)

/-- S2: a quit request sends Terminate and stops the slow domain; without one the frame goes on (R135). -/
def Obligations.FrameSendsTerminateOnQuit : Prop :=
  (∀ (s : State) (b : Bool), ∃ q, State.sampledQuit { s with quitIn := q } = b) ∧
  ∀ s : State, s.mover = some .slow → s.slowPhase = .s2 →
    (s.sampledQuit = false →
      step s = .next { s with turns := s.turns.after, quitIn := afterValue s.quitIn, slowPhase := .s3 }) ∧
    (s.sampledQuit = true → s.fifoFull = false →
      step s = .next { s with
        turns := s.turns.after, quitIn := afterValue s.quitIn, fifo := s.fifo ++ [.terminate], slowStopped := true }) ∧
    (s.sampledQuit = true → s.fifoFull = true →
      step s = .next { s with
        turns := s.turns.after, quitIn := afterValue s.quitIn, fifoOverflow := true, slowStopped := true })

/-- S3 copies the snapshot slot and puts its display out; a Terminated snapshot stops the slow domain (R136, R146). -/
def Obligations.FrameReadsTheSnapshot : Prop :=
  ∀ s : State, s.mover = some .slow → s.slowPhase = .s3 →
    (∀ t, step s = .next t → ∀ col row, col < 64 → row < 32 →
      t.frameOutPort.getLsbD (row * 64 + col) = s.snap.disp.pixel col row) ∧
    (s.snap.status = .active →
      step s = .next { s with turns := s.turns.after, frameSnap := s.snap, slowPhase := .s4a }) ∧
    (s.snap.status = .terminated →
      step s = .next { s with turns := s.turns.after, frameSnap := s.snap, slowStopped := true })

/-- S4: exactly one decrement of each timer is sent, in two separate steps, and none is sent by any other step of a frame, so
none by a frame that stops at S2 or S3 (R133, R137). -/
def Obligations.FrameSendsOneDecrementOfEach : Prop :=
  ∀ s : State, s.mover = some .slow →
    (s.slowPhase = .s4a → s.fifoFull = false →
      step s = .next { s with
        turns := s.turns.after, fifo := s.fifo ++ [.decrementDelayTimer], slowPhase := .s4b }) ∧
    (s.slowPhase = .s4b → s.fifoFull = false →
      step s = .next { s with
        turns := s.turns.after, fifo := s.fifo ++ [.decrementSoundTimer], slowPhase := .s5 }) ∧
    (s.slowPhase = .s4a → s.fifoFull = true →
      step s = .next { s with turns := s.turns.after, fifoOverflow := true, slowPhase := .s4b }) ∧
    (s.slowPhase = .s4b → s.fifoFull = true →
      step s = .next { s with turns := s.turns.after, fifoOverflow := true, slowPhase := .s5 }) ∧
    (s.slowPhase ≠ .s4a → ∀ t, step s = .next t →
      t.fifo.count .decrementDelayTimer = s.fifo.count .decrementDelayTimer) ∧
    (s.slowPhase ≠ .s4b → ∀ t, step s = .next t →
      t.fifo.count .decrementSoundTimer = s.fifo.count .decrementSoundTimer)

/-- S5 leaves the tone on exactly when the frame's sound timer is above 0, and no other step of a frame changes the tone; S6 changes
nothing but the phase (R133, R139, and R138's "After every S5", which the spec marks as derived). -/
def Obligations.FrameDrivesTheTone : Prop :=
  ∀ s : State, s.mover = some .slow →
    (s.slowPhase = .s5 →
      step s = .next { s with
        turns := s.turns.after, sounding := decide (0 < s.frameSnap.st.toNat), slowPhase := .s6 }) ∧
    (s.slowPhase ≠ .s5 → ∀ t, step s = .next t → t.toneOnPort = s.toneOnPort) ∧
    (s.slowPhase = .s6 → step s = .next { s with turns := s.turns.after, slowPhase := .s1 })

/-! ### Who may step, and who may write -/

/-- A step is enabled exactly while the block is neither ended nor failed to start, and no step refuses (R117, R143, R150; the two
answers where none is enabled are the model's, log entries 7 and 9). -/
def Obligations.StepsUntilTheRunEnds : Prop :=
  ∀ s : State,
    ((∃ t, step s = .next t) ↔ s.loadError = false ∧ ¬s.ended) ∧
    (s.loadError = true → step s = .fault .neverStarted) ∧
    (s.loadError = false → s.ended → step s = .fault .runEnded)

/-- Any enabled domain may be the one that steps (R150, in the model's form of log entry 7). -/
def Obligations.AnyEnabledDomainMayStep : Prop :=
  ∀ (s : State) (a : Agent), s.enabled a = true → ∃ q, State.mover { s with turns := q } = some a

/-- The slow domain never writes the working state or the snapshot slot, and adds at most one signal at the tail (R15, R54). -/
def Obligations.SlowStepLeavesWorkingState : Prop :=
  ∀ s t : State, s.mover = some .slow → step s = .next t →
    t.work = s.work ∧ t.snap = s.snap ∧ t.fastPhase = s.fastPhase ∧ t.fastStopped = s.fastStopped ∧
    t.draws = s.draws ∧ t.cfg = s.cfg ∧ t.loadError = s.loadError ∧
    (t.fifo = s.fifo ∨ ∃ g, t.fifo = s.fifo ++ [g])

/-- The fast domain writes nothing of the slow domain's, and takes the FIFO whole or not at all (R54, R123); that it leaves the sticky
bit set after SignalOverflow is the model's reading of R123 (log entry 13). -/
def Obligations.FastStepLeavesSlowState : Prop :=
  ∀ s t : State, s.mover = some .fast → step s = .next t →
    t.lastKeysSent = s.lastKeysSent ∧ t.sounding = s.sounding ∧ t.frameSnap = s.frameSnap ∧
    t.slowPhase = s.slowPhase ∧ t.slowStopped = s.slowStopped ∧ t.keysIn = s.keysIn ∧ t.quitIn = s.quitIn ∧
    t.fifoOverflow = s.fifoOverflow ∧ t.cfg = s.cfg ∧ t.loadError = s.loadError ∧ (t.fifo = s.fifo ∨ t.fifo = [])

/-- Nothing returns: Terminated stays, a domain that stopped stays stopped, the snapshot slot changes only into the working state,
and, in a state that meets the life invariant, a fault record stays (R30, R31, R35, R116). -/
def Obligations.TerminationIsOneWay : Prop :=
  ∀ s t : State, step s = .next t →
    (s.work.status = .terminated → t.work.status = .terminated) ∧
    (s.fastStopped = true → t.fastStopped = true) ∧
    (s.slowStopped = true → t.slowStopped = true) ∧
    (t.snap = s.snap ∨ t.snap = t.work) ∧
    (s.lifeInv → ∀ r, s.work.fault = some r → t.work.fault = some r)

/-- An instruction raises at most the one fault kind R115 gives it, and no step raises LinkFailure or LoadTooLarge (R115, R118). -/
def Obligations.InstructionsRaiseOnlyTheirFault : Prop :=
  (∀ (i : Instr) (s t : State), exec i s = .next t → t.work.fault ≠ s.work.fault →
    ∃ r, t.work.fault = some r ∧ ownFault i = some r.code) ∧
  ∀ (s t : State) (r : FaultRecord), step s = .next t → t.work.fault = some r → s.work.fault ≠ some r →
    r.code ≠ .linkFailure ∧ r.code ≠ .loadTooLarge

/-- Memory, I, the stack, the display, DT and ST are written by their own instructions only, and `keys` by none (R21, R24, R26 to
R29, 20_memory.md R42). -/
def Obligations.EachStateHasItsOwnWriters : Prop :=
  ∀ (i : Instr) (s t : State), exec i s = .next t →
    (storesMemory i = false → t.work.mem = s.work.mem ∧ sameBytes s t) ∧
    (writesI i = false → t.work.i = s.work.i) ∧
    (usesStack i = false → t.work.stack = s.work.stack) ∧
    (writesDisplay i = false → t.work.disp = s.work.disp) ∧
    ((∀ x, i ≠ .ldToDt x) → t.work.dt = s.work.dt) ∧
    ((∀ x, i ≠ .ldToSt x) → t.work.st = s.work.st) ∧
    t.work.keys = s.work.keys

/-- A V register changes only as an instruction's destination, or as VF by an instruction that writes the flag (R19, and R20, which
the spec marks as derived). -/
def Obligations.RegistersHaveTheirOwnWriters : Prop :=
  ∀ (i : Instr) (s t : State) (y : Reg), exec i s = .next t → isDestination i y = false →
    (y = 0xF#4 → writesFlag i = false) → t.work.reg y = s.work.reg y

/-- How each instruction leaves the pc (R23). -/
def Obligations.PcAfterEachInstruction : Prop :=
  ∀ (i : Instr) (a : Word) (s t : State), s.work.pc = a + 2 → exec i s = .next t → t.work.fault = none →
    leavesPcAsStated i a s t

/-! ### Instructions: results, completion and frames -/

/-- 6XNN and 7XNN (R83, R84): the immediate, and the sum modulo 256 with VF not written. -/
def Obligations.ConstantLoadAndAdd : Prop :=
  ∀ (x : Reg) (nn : Byte) (s : State),
    hasWord (.ldImm x nn) (0x6#4 ++ x ++ nn) ∧ writesReg (.ldImm x nn) s x nn ∧
    hasWord (.addImm x nn) (0x7#4 ++ x ++ nn) ∧
    writesReg (.addImm x nn) s x (BitVec.ofNat 8 (((s.work.reg x).toNat + nn.toNat) % 256))

/-- 8XY0, 8XY1, 8XY2 and 8XY3 (R86 to R89): no flag is written. -/
def Obligations.CopyAndBitwise : Prop :=
  ∀ (x y : Reg) (s : State),
    hasWord (.ldReg x y) (0x8#4 ++ x ++ y ++ 0x0#4) ∧ hasWord (.orReg x y) (0x8#4 ++ x ++ y ++ 0x1#4) ∧
    hasWord (.andReg x y) (0x8#4 ++ x ++ y ++ 0x2#4) ∧ hasWord (.xorReg x y) (0x8#4 ++ x ++ y ++ 0x3#4) ∧
    writesReg (.ldReg x y) s x (s.work.reg y) ∧
    writesReg (.orReg x y) s x (s.work.reg x ||| s.work.reg y) ∧
    writesReg (.andReg x y) s x (s.work.reg x &&& s.work.reg y) ∧
    writesReg (.xorReg x y) s x (s.work.reg x ^^^ s.work.reg y)

/-- 8XY4, 8XY5, 8XY7, 8XY6 and 8XYE, for every x and both shift settings (R85, R90 to R94). -/
def Obligations.FlagOperations : Prop :=
  ∀ (x y : Reg) (s : State),
    hasWord (.addReg x y) (0x8#4 ++ x ++ y ++ 0x4#4) ∧ hasWord (.sub x y) (0x8#4 ++ x ++ y ++ 0x5#4) ∧
    hasWord (.shr x y) (0x8#4 ++ x ++ y ++ 0x6#4) ∧ hasWord (.subn x y) (0x8#4 ++ x ++ y ++ 0x7#4) ∧
    hasWord (.shl x y) (0x8#4 ++ x ++ y ++ 0xE#4) ∧
    writesResultAndFlag (.addReg x y) s x
      (BitVec.ofNat 8 (((s.work.reg x).toNat + (s.work.reg y).toNat) % 256))
      (if 0xFF < (s.work.reg x).toNat + (s.work.reg y).toNat then 1 else 0) ∧
    writesResultAndFlag (.sub x y) s x
      (BitVec.ofNat 8 ((256 + (s.work.reg x).toNat - (s.work.reg y).toNat) % 256))
      (if (s.work.reg y).toNat ≤ (s.work.reg x).toNat then 1 else 0) ∧
    writesResultAndFlag (.subn x y) s x
      (BitVec.ofNat 8 ((256 + (s.work.reg y).toNat - (s.work.reg x).toNat) % 256))
      (if (s.work.reg x).toNat ≤ (s.work.reg y).toNat then 1 else 0) ∧
    ∀ src, src = (if s.cfg.shiftQuirk = true then s.work.reg y else s.work.reg x) →
      writesResultAndFlag (.shr x y) s x (BitVec.ofNat 8 (src.toNat / 2)) (if src.toNat % 2 = 1 then 1 else 0) ∧
      writesResultAndFlag (.shl x y) s x (BitVec.ofNat 8 (src.toNat * 2 % 256)) (if 128 ≤ src.toNat then 1 else 0)

/-- CXNN (R110): a byte the model does not choose, any u8, masked by nn. -/
def Obligations.RandomIsAMaskedFreeByte : Prop :=
  ∀ (x : Reg) (nn : Byte) (s : State),
    hasWord (.rnd x nn) (0xC#4 ++ x ++ nn) ∧
    (∃ b t, exec (.rnd x nn) s = .next t ∧ t.work.reg x = b &&& nn ∧ sameRegsBut x s t ∧ onlyRegsAndDraws s t) ∧
    ∀ b : Byte, ∃ q t, exec (.rnd x nn) { s with draws := q } = .next t ∧ t.work.reg x = b &&& nn

/-- 1NNN and BNNN (R75, R76): the target, not reduced to 12 bits. -/
def Obligations.JumpsOverwriteThePc : Prop :=
  ∀ (nnn : Addr) (s : State),
    hasWord (.jp nnn) (0x1#4 ++ nnn) ∧ hasWord (.jpV0 nnn) (0xB#4 ++ nnn) ∧
    leavesPc (.jp nnn) s (BitVec.ofNat 16 nnn.toNat) ∧
    leavesPc (.jpV0 nnn) s (BitVec.ofNat 16 (nnn.toNat + (s.work.reg 0).toNat))

/-- 2NNN (R77, R25): the return address is pushed and the pc overwritten; a bounded stack that is full raises StackOverflow with
STACK_DEPTH recorded, where it fits in the 16 bits of `info` (the value beyond is free, log entry 5). -/
def Obligations.CallPushesTheReturnAddress : Prop :=
  ∀ (nnn : Addr) (s : State),
    hasWord (.call nnn) (0x2#4 ++ nnn) ∧
    (s.cfg.stackDepth ≠ some s.work.stack.length →
      ∃ t, exec (.call nnn) s = .next t ∧ t.work.pc = BitVec.ofNat 16 nnn.toNat ∧
        t.work.stack = s.work.stack ++ [s.work.pc] ∧ onlyPcAndStack s t) ∧
    ∀ d, s.cfg.stackDepth = some d → s.work.stack.length = d →
      ∃ info, (d ≤ 0xFFFF → info = BitVec.ofNat 16 d) ∧ faultsWith (.call nnn) s .stackOverflow info

/-- 00EE (R78): the last entry is popped into the pc; an empty stack raises StackUnderflow. -/
def Obligations.ReturnPopsThePc : Prop :=
  hasWord .ret 0x00EE#16 ∧
  ∀ s : State,
    (∀ l a, s.work.stack = l ++ [a] →
      ∃ t, exec .ret s = .next t ∧ t.work.pc = a ∧ t.work.stack = l ∧ onlyPcAndStack s t) ∧
    (s.work.stack = [] → faultsWith .ret s .stackUnderflow 0)

/-- A call and, in any later state with the same stack, a return restore the pc and the stack (R77, R78; source section 8). -/
def Obligations.CallThenReturnIsNetZero : Prop :=
  ∀ (nnn : Addr) (s t u : State), exec (.call nnn) s = .next t → t.work.fault = none → u.work.stack = t.work.stack →
    ∃ v, exec .ret u = .next v ∧ v.work.pc = s.work.pc ∧ v.work.stack = s.work.stack ∧ onlyPcAndStack u v

/-- 3XNN, 4XNN, 5XY0 and 9XY0 (R79 to R82): the pc moves 2 further exactly when the condition holds. -/
def Obligations.SkipsOnRegisters : Prop :=
  ∀ (x y : Reg) (nn : Byte) (s : State),
    hasWord (.seImm x nn) (0x3#4 ++ x ++ nn) ∧ hasWord (.sneImm x nn) (0x4#4 ++ x ++ nn) ∧
    hasWord (.seReg x y) (0x5#4 ++ x ++ y ++ 0x0#4) ∧ hasWord (.sneReg x y) (0x9#4 ++ x ++ y ++ 0x0#4) ∧
    leavesPc (.seImm x nn) s (if s.work.reg x = nn then s.work.pc + 2 else s.work.pc) ∧
    leavesPc (.sneImm x nn) s (if s.work.reg x ≠ nn then s.work.pc + 2 else s.work.pc) ∧
    leavesPc (.seReg x y) s (if s.work.reg x = s.work.reg y then s.work.pc + 2 else s.work.pc) ∧
    leavesPc (.sneReg x y) s (if s.work.reg x ≠ s.work.reg y then s.work.pc + 2 else s.work.pc)

/-- EX9E and EXA1 (R104, R105): a skip on the drained key mask; an index above 0xF raises KeyIndexOutOfRange. -/
def Obligations.SkipsOnKeys : Prop :=
  ∀ (x : Reg) (s : State),
    hasWord (.skp x) (0xE#4 ++ x ++ 0x9E#8) ∧ hasWord (.sknp x) (0xE#4 ++ x ++ 0xA1#8) ∧
    ((s.work.reg x).toNat ≤ 0xF →
      leavesPc (.skp x) s (if s.work.keys.getLsbD (s.work.reg x).toNat = true then s.work.pc + 2 else s.work.pc) ∧
      leavesPc (.sknp x) s (if s.work.keys.getLsbD (s.work.reg x).toNat = false then s.work.pc + 2 else s.work.pc)) ∧
    (0xF < (s.work.reg x).toNat →
      faultsWith (.skp x) s .keyIndexOutOfRange (BitVec.ofNat 16 (s.work.reg x).toNat) ∧
      faultsWith (.sknp x) s .keyIndexOutOfRange (BitVec.ofNat 16 (s.work.reg x).toNat))

/-- FX0A (R106): with no key pressed the pc goes back by 2 and nothing else changes; otherwise a pressed key's index is stored, the
lowest under Lowest, and under Any one of them, each of them admitted. -/
def Obligations.KeyWaitSpinsOrStoresAKey : Prop :=
  ∀ (x : Reg) (s : State),
    hasWord (.ldKey x) (0xF#4 ++ x ++ 0x0A#8) ∧
    (s.work.keys = 0 → leavesPc (.ldKey x) s (s.work.pc - 2)) ∧
    (s.cfg.keySelect = .lowest → ∀ k, k < 16 → s.work.keys.getLsbD k = true →
      (∀ j, j < k → s.work.keys.getLsbD j = false) → writesReg (.ldKey x) s x (BitVec.ofNat 8 k)) ∧
    (s.cfg.keySelect = .any → s.work.keys ≠ 0 →
      (∃ t k, exec (.ldKey x) s = .next t ∧ k < 16 ∧ s.work.keys.getLsbD k = true ∧
        t.work.reg x = BitVec.ofNat 8 k ∧ sameRegsBut x s t ∧ onlyRegsAndDraws s t) ∧
      ∀ k, k < 16 → s.work.keys.getLsbD k = true →
        ∃ q t, exec (.ldKey x) { s with draws := q } = .next t ∧ t.work.reg x = BitVec.ofNat 8 k)

/-- ANNN, FX1E and FX29 (R95, R96, R97), with IndexOverflow and FontDigitOutOfRange. -/
def Obligations.IndexOperations : Prop :=
  (∀ (nnn : Addr) (s : State), hasWord (.ldI nnn) (0xA#4 ++ nnn) ∧
    ∃ t, exec (.ldI nnn) s = .next t ∧ t.work.i = BitVec.ofNat 16 nnn.toNat ∧ onlyI s t) ∧
  ∀ (x : Reg) (s : State),
    hasWord (.addI x) (0xF#4 ++ x ++ 0x1E#8) ∧ hasWord (.ldFont x) (0xF#4 ++ x ++ 0x29#8) ∧
    (s.work.i.toNat + (s.work.reg x).toNat ≤ 0xFFFF →
      ∃ t, exec (.addI x) s = .next t ∧
        t.work.i = BitVec.ofNat 16 (s.work.i.toNat + (s.work.reg x).toNat) ∧ onlyI s t) ∧
    (0xFFFF < s.work.i.toNat + (s.work.reg x).toNat → faultsWith (.addI x) s .indexOverflow s.work.i) ∧
    ((s.work.reg x).toNat ≤ 0xF →
      ∃ t, exec (.ldFont x) s = .next t ∧ t.work.i = BitVec.ofNat 16 (5 * (s.work.reg x).toNat) ∧ onlyI s t) ∧
    (0xF < (s.work.reg x).toNat →
      faultsWith (.ldFont x) s .fontDigitOutOfRange (BitVec.ofNat 16 (s.work.reg x).toNat))

/-- FX55 (R98): V0 to Vx go to I .. I+x, in a memory in canonical form; a block beyond 0xFFF writes nothing and raises
MemoryOutOfRange. -/
def Obligations.StoreWritesRegistersAtI : Prop :=
  ∀ (x : Reg) (s : State), Memory.wf s.cfg.font s.work.mem = true →
    hasWord (.store x) (0xF#4 ++ x ++ 0x55#8) ∧
    (s.work.i.toNat + x.toNat ≤ 0xFFF →
      ∃ t, exec (.store x) s = .next t ∧
        (∀ k : Reg, k.toNat ≤ x.toNat → t.readByte (s.work.i.toNat + k.toNat) = s.work.reg k) ∧
        sameBytesOutside s.work.i.toNat (x.toNat + 1) s t ∧ onlyMem s t) ∧
    (0xFFF < s.work.i.toNat + x.toNat →
      faultsWith (.store x) s .memoryOutOfRange (BitVec.ofNat 16 (max s.work.i.toNat 0x1000)))

/-- FX65 (R99): V0 to Vx come from I .. I+x and the other registers stay; a block beyond 0xFFF raises MemoryOutOfRange. -/
def Obligations.LoadReadsRegistersAtI : Prop :=
  ∀ (x : Reg) (s : State),
    hasWord (.load x) (0xF#4 ++ x ++ 0x65#8) ∧
    (s.work.i.toNat + x.toNat ≤ 0xFFF →
      ∃ t, exec (.load x) s = .next t ∧
        (∀ k : Reg, t.work.reg k =
          if k.toNat ≤ x.toNat then s.readByte (s.work.i.toNat + k.toNat) else s.work.reg k) ∧ onlyRegs s t) ∧
    (0xFFF < s.work.i.toNat + x.toNat →
      faultsWith (.load x) s .memoryOutOfRange (BitVec.ofNat 16 (max s.work.i.toNat 0x1000)))

/-- FX33 (R100): hundreds, tens and units of Vx at I, I+1 and I+2, in a memory in canonical form. -/
def Obligations.BcdWritesThreeDigits : Prop :=
  ∀ (x : Reg) (s : State), Memory.wf s.cfg.font s.work.mem = true →
    hasWord (.bcd x) (0xF#4 ++ x ++ 0x33#8) ∧
    (s.work.i.toNat + 2 ≤ 0xFFF →
      ∃ t, exec (.bcd x) s = .next t ∧
        (t.readByte s.work.i.toNat).toNat = (s.work.reg x).toNat / 100 ∧
        (t.readByte (s.work.i.toNat + 1)).toNat = (s.work.reg x).toNat / 10 % 10 ∧
        (t.readByte (s.work.i.toNat + 2)).toNat = (s.work.reg x).toNat % 10 ∧
        sameBytesOutside s.work.i.toNat 3 s t ∧ onlyMem s t) ∧
    (0xFFF < s.work.i.toNat + 2 →
      faultsWith (.bcd x) s .memoryOutOfRange (BitVec.ofNat 16 (max s.work.i.toNat 0x1000)))

/-- FX55 and then FX65 from the same address, whatever happened to the V registers between, restore V0 to Vx (R98, R99; source
section 8). -/
def Obligations.StoreThenLoadRestoresRegisters : Prop :=
  ∀ (x : Reg) (s t u : State), Memory.wf s.cfg.font s.work.mem = true →
    exec (.store x) s = .next t → t.work.fault = none → u = { t with work := { t.work with v := u.work.v } } →
    ∃ v, exec (.load x) u = .next v ∧ ∀ k : Reg, k.toNat ≤ x.toNat → v.work.reg k = s.work.reg k

/-- 00E0 (R101): every pixel off, and nothing else changes. -/
def Obligations.ClearScreenClearsEveryPixel : Prop :=
  hasWord .cls 0x00E0#16 ∧
  ∀ s : State, ∃ t, exec .cls s = .next t ∧
    (∀ col row, col < 64 → row < 32 → t.work.disp.pixel col row = false) ∧ onlyDisp s t

/-- DXYN (R102, R103): each pixel of the grid that the sprite's set bits cover is inverted and no other, VF is 1 exactly when one of
them was set, and bytes beyond 0xFFF raise MemoryOutOfRange. -/
def Obligations.DrawXorsTheSprite : Prop :=
  ∀ (x y : Reg) (n : Nibble) (s : State) (bytes : List Byte),
    bytes = (List.range n.toNat).map (fun k => s.readByte (s.work.i.toNat + k)) →
    hasWord (.drw x y n) (0xD#4 ++ x ++ y ++ n) ∧
    (n = 0 ∨ s.work.i.toNat + n.toNat - 1 ≤ 0xFFF →
      ∃ t, exec (.drw x y n) s = .next t ∧
        (∀ col row, col < 64 → row < 32 →
          (spriteCovers bytes ((s.work.reg x).toNat % 64) ((s.work.reg y).toNat % 32) col row →
            t.work.disp.pixel col row = !s.work.disp.pixel col row) ∧
          (¬spriteCovers bytes ((s.work.reg x).toNat % 64) ((s.work.reg y).toNat % 32) col row →
            t.work.disp.pixel col row = s.work.disp.pixel col row)) ∧
        (t.work.reg 0xF#4 = 1 ∨ t.work.reg 0xF#4 = 0) ∧
        (t.work.reg 0xF#4 = 1 ↔ ∃ col row, col < 64 ∧ row < 32 ∧ s.work.disp.pixel col row = true ∧
          spriteCovers bytes ((s.work.reg x).toNat % 64) ((s.work.reg y).toNat % 32) col row) ∧
        sameRegsBut 0xF#4 s t ∧ onlyDispAndRegs s t) ∧
    (n ≠ 0 → 0xFFF < s.work.i.toNat + n.toNat - 1 →
      faultsWith (.drw x y n) s .memoryOutOfRange (BitVec.ofNat 16 (max s.work.i.toNat 0x1000)))

/-- FX07, FX15 and FX18 (R107, R108, R109). -/
def Obligations.TimerTransfers : Prop :=
  ∀ (x : Reg) (s : State),
    hasWord (.ldFromDt x) (0xF#4 ++ x ++ 0x07#8) ∧ hasWord (.ldToDt x) (0xF#4 ++ x ++ 0x15#8) ∧
    hasWord (.ldToSt x) (0xF#4 ++ x ++ 0x18#8) ∧
    writesReg (.ldFromDt x) s x s.work.dt ∧
    (∃ t, exec (.ldToDt x) s = .next t ∧ t.work.dt = s.work.reg x ∧ onlyDt s t) ∧
    (∃ t, exec (.ldToSt x) s = .next t ∧ t.work.st = s.work.reg x ∧ onlySt s t)

/-! ### Reset and load -/

/-- After reset and the load of an image that fits, every row of R39's table holds (R39, R151, R153). -/
def Obligations.BootHoldsTheResetTable : Prop :=
  ∀ (p : Params) (image : List Byte), image.length ≤ 3584 →
    ∀ s, s = State.boot p image →
      (∀ a, a < 0x50 → s.readByte a = p.font.getD a 0) ∧
      (∀ a, 0x50 ≤ a → a < 0x200 → s.readByte a = 0) ∧
      (∀ k, k < image.length → s.readByte (0x200 + k) = image.getD k 0) ∧
      (∀ a, 0x200 + image.length ≤ a → a < 0x1000 → s.readByte a = 0) ∧
      (∀ x, s.work.reg x = 0) ∧ s.work.i = 0 ∧ s.work.pc = 0x200 ∧ s.work.stack = [] ∧
      (∀ col row, s.work.disp.pixel col row = false) ∧ s.work.dt = 0 ∧ s.work.st = 0 ∧ s.work.keys = 0 ∧
      s.work.status = .active ∧ s.work.fault = none ∧ s.fifo = [] ∧ s.snap = s.work ∧ s.fastStopped = false ∧
      s.slowStopped = false ∧ s.fastPhase = .drain ∧ s.slowPhase = .s1 ∧ s.fifoOverflow = false ∧
      s.frameSnap = s.work ∧ s.lastKeysSent = 0 ∧ s.sounding = false

/-- An image that does not fit is LoadTooLarge: the record holds code 3, 0x200 and the saturated length, no byte is written, and
neither domain ever steps (R112, R117, R153). -/
def Obligations.OversizedImageNeverStarts : Prop :=
  ∀ (p : Params) (image : List Byte), 3584 < image.length →
    ∀ s, s = State.boot p image →
      s.work.fault = some ⟨.loadTooLarge, 0x200, BitVec.ofNat 16 (min image.length 0xFFFF)⟩ ∧
      s.faultCodePort = 3 ∧ s.loadErrorPort = true ∧
      (∀ a, s.readByte a = (State.resetWith p).readByte a) ∧ step s = .fault .neverStarted

/-! ### Invariants -/

/-- Every step keeps the shape invariant: canonical memories, a bounded pc, stack entries that calls pushed, bounded queues (R23,
R25, R78, 60_exceptions.md R122). -/
def Obligations.StepKeepsTheShape : Prop := ∀ s t : State, s.shapeInv → step s = .next t → t.shapeInv

/-- Every step keeps the life invariant: status, fault, stop flags and snapshot hang together (R30, R31, R35, R113, R127, R136,
R143). -/
def Obligations.StepKeepsTheLife : Prop := ∀ s t : State, s.lifeInv → step s = .next t → t.lifeInv

/-- Every step keeps the synchronizer invariant: the settled tone follows the frame's sound timer, and draining the FIFO would leave
in `keys` the mask last sent (R124, R134, R138). -/
def Obligations.StepKeepsTheSynchronizer : Prop := ∀ s t : State, s.syncInv → step s = .next t → t.syncInv

/-- The three invariants hold at reset, and after the load of any image under any parameters (R39, R151; the default STACK_DEPTH,
load_error at reset and the state after a failed load are the model's choices, log entries 4 and 6). -/
def Obligations.BootMeetsTheInvariants : Prop :=
  (State.reset.shapeInv ∧ State.reset.lifeInv ∧ State.reset.syncInv) ∧
  ∀ (p : Params) (image : List Byte),
    (State.boot p image).shapeInv ∧ (State.boot p image).lifeInv ∧ (State.boot p image).syncInv

/-! ### Whole runs -/

/-- The timer cadence (R141, which the spec marks as derived): along any run, the decrements of a timer that the fast domain has applied, with those still queued,
are at most the frames' sends plus those queued at the start; so from reset at most N for N sends. -/
def Obligations.DecrementsNeverOutrunTheFrames : Prop :=
  ∀ (s t : State) (n m : Nat),
    (tally .decrementDelayTimer .s4a s n m t →
      m + t.fifo.count .decrementDelayTimer ≤ n + s.fifo.count .decrementDelayTimer) ∧
    (tally .decrementSoundTimer .s4b s n m t →
      m + t.fifo.count .decrementSoundTimer ≤ n + s.fifo.count .decrementSoundTimer)

/-- Nothing of the slow domain's but the FIFO reaches the fast domain (R15, R148): two states that agree on what the fast domain
reads or writes give fast steps that agree again. -/
def Obligations.FastStepSeesOnlyTheFifo : Prop :=
  ∀ s t : State, fastAgree s t → ∃ s' t', s.fastStep = .next s' ∧ t.fastStep = .next t' ∧ fastAgree s' t'

/-- Nothing of the fast domain's but the snapshot slot and the taking of the FIFO reaches the slow domain (R148, R149). -/
def Obligations.SlowStepSeesOnlyTheSnapshot : Prop :=
  ∀ s t : State, slowAgree s t → slowAgree s.slowStep t.slowStep

/-- After a fault the run ends, and not well, within the seven steps of one frame (R113, R136, R143, R170); with the quit request of
S2 it may end sooner. Where one domain has stopped, the other takes every step (log entry 7). -/
def Obligations.FaultEndsTheRunWithinAFrame : Prop :=
  ∀ s : State, s.lifeInv → s.loadError = false → s.work.fault ≠ none →
    ∃ k t, k ≤ 7 ∧ s.after k = some t ∧ t.ended ∧ ¬t.endedWell

/-- A queued Terminate ends the run, and well, within two steps: its sender has stopped, and the fast domain, still running and with
no overflow, has at most a publish to make before the drain that stops it (R127, R135, R143, R170). Where one domain has stopped,
the other takes every step (log entry 7). -/
def Obligations.QuitEndsTheRunWell : Prop :=
  ∀ s : State, s.lifeInv → s.loadError = false → s.fastStopped = false → s.fifoOverflow = false →
    Signal.terminate ∈ s.fifo → ∃ k t, k ≤ 2 ∧ s.after k = some t ∧ t.endedWell

/-! ### Scheduling -/

/-- Every run is weakly fair: a domain that has not stopped eventually takes its next step (R150, R169; in the model's form of log
entry 7, where a burst of one domain's steps is of any finite length). -/
def Obligations.EveryRunIsWeaklyFair : Prop := ∀ s : State, s.fairRun

/-- Every interleaving is admitted (R150; in the model's form of log entry 7): for any finite sequence of choices, some turns make each
of them the domain that moves, wherever the one chosen has not stopped. -/
def Obligations.EveryInterleavingIsAdmitted : Prop :=
  ∀ (s : State) (choices : List Agent), ∃ q : Turns, ∀ (k : Nat) (h : k < choices.length) (t : State),
    State.after k { s with turns := q } = some t → t.enabled choices[k] = true → t.mover = some choices[k]

/-! ### Output ports -/

/-- `frame_strobe` rises at S3, together with the frame's display at `frame_out`, falls at the slow domain's next step, and is left alone
by every other step of either domain; where S3 stops the slow domain, the run has ended with it (R133, R136, R143, R148; that the pulse
lasts until the slow domain's next step is the model's choice, log entry 12). -/
def Obligations.FrameStrobePulsesAfterS3 : Prop :=
  ∀ s t : State, step s = .next t →
    (s.mover = some .slow → s.slowPhase = .s3 →
      s.frameStrobePort = false ∧ t.frameStrobePort = true ∧
      (∀ col row, col < 64 → row < 32 → t.frameOutPort.getLsbD (row * 64 + col) = s.snap.disp.pixel col row) ∧
      (s.lifeInv → t.slowStopped = true → t.ended)) ∧
    (s.mover = some .slow → s.slowPhase ≠ .s3 → t.frameStrobePort = false) ∧
    (s.mover = some .fast → t.frameStrobePort = s.frameStrobePort ∧ t.frameOutPort = s.frameOutPort)

/-- `fault_code`, `fault_pc` and `fault_info` show the record, with the codes of R112, and `fault_code` is 0 without one (R112, R148);
a step that records a fault shows it at once, with the pc of the instruction (R113; of the drain, for SignalOverflow). -/
def Obligations.FaultPortsShowTheRecord : Prop :=
  (∀ s : State,
    (s.work.fault = none → s.faultCodePort = 0) ∧
    ∀ r, s.work.fault = some r →
      s.faultPcPort = r.pc ∧ s.faultInfoPort = r.info ∧
      s.faultCodePort =
        match r.code with
        | .unknownOpcode => 1
        | .stackUnderflow => 2
        | .loadTooLarge => 3
        | .linkFailure => 4
        | .memoryOutOfRange => 5
        | .stackOverflow => 6
        | .indexOverflow => 7
        | .fontDigitOutOfRange => 8
        | .keyIndexOutOfRange => 9
        | .signalOverflow => 10) ∧
  ∀ s t : State, step s = .next t → s.work.fault = none → t.work.fault ≠ none →
    s.faultCodePort = 0 ∧ t.faultCodePort ≠ 0 ∧ t.faultPcPort = s.work.pc
end

