-- ==== Sys2Proof/Laws/Encoding.lean ====
section
/-! SUPPORT. The bits and the fields of each instruction format (30_encoding.md R61, R63). -/

namespace Sys2Proof

/-! ### Bits of a format -/

theorem getLsbD_formatA (o : Nibble) (n : Addr) (k : Nat) :
    (formatA o n).getLsbD k = if k < 12 then n.getLsbD k else o.getLsbD (k - 12) :=
  BitVec.getLsbD_append

theorem getLsbD_formatXNN (o : Nibble) (x : Reg) (n : Byte) (k : Nat) :
    (formatXNN o x n).getLsbD k =
      if k < 8 then n.getLsbD k else if k < 12 then x.getLsbD (k - 8) else o.getLsbD (k - 12) := by
  refine (BitVec.getLsbD_append (x := o ++ x) (y := n)).trans ?_
  rw [BitVec.getLsbD_append]
  simp only [show k - 8 < 4 ↔ k < 12 by omega, show k - 8 - 4 = k - 12 by omega]

theorem getLsbD_formatXF (o : Nibble) (x : Reg) (f : Byte) (k : Nat) :
    (formatXF o x f).getLsbD k =
      if k < 8 then f.getLsbD k else if k < 12 then x.getLsbD (k - 8) else o.getLsbD (k - 12) :=
  getLsbD_formatXNN o x f k

theorem getLsbD_formatXYN (o : Nibble) (x y : Reg) (n : Nibble) (k : Nat) :
    (formatXYN o x y n).getLsbD k =
      if k < 4 then n.getLsbD k else if k < 8 then y.getLsbD (k - 4)
      else if k < 12 then x.getLsbD (k - 8) else o.getLsbD (k - 12) := by
  refine (BitVec.getLsbD_append (x := o ++ x ++ y) (y := n)).trans ?_
  rw [BitVec.getLsbD_append, BitVec.getLsbD_append]
  simp only [show k - 4 < 4 ↔ k < 8 by omega, show k - 4 - 4 = k - 8 by omega, show k - 8 < 4 ↔ k < 12 by omega,
    show k - 8 - 4 = k - 12 by omega]

/-! ### Fields of a format -/

@[simp] theorem opField_formatA (o : Nibble) (n : Addr) : opField (formatA o n) = o := by
  refine BitVec.eq_of_getLsbD_eq fun k hk => ?_
  simp [opField, getLsbD_formatA, hk]

@[simp] theorem nnnField_formatA (o : Nibble) (n : Addr) : nnnField (formatA o n) = n := by
  refine BitVec.eq_of_getLsbD_eq fun k hk => ?_
  simp [nnnField, getLsbD_formatA, hk]

@[simp] theorem opField_formatXNN (o : Nibble) (x : Reg) (n : Byte) : opField (formatXNN o x n) = o := by
  refine BitVec.eq_of_getLsbD_eq fun k hk => ?_
  simp [opField, getLsbD_formatXNN, hk, show ¬12 + k < 8 by omega]

@[simp] theorem xField_formatXNN (o : Nibble) (x : Reg) (n : Byte) : xField (formatXNN o x n) = x := by
  refine BitVec.eq_of_getLsbD_eq fun k hk => ?_
  simp [xField, getLsbD_formatXNN, hk, show 8 + k < 12 by omega]

@[simp] theorem nnField_formatXNN (o : Nibble) (x : Reg) (n : Byte) : nnField (formatXNN o x n) = n := by
  refine BitVec.eq_of_getLsbD_eq fun k hk => ?_
  simp [nnField, getLsbD_formatXNN, hk]

@[simp] theorem opField_formatXF (o : Nibble) (x : Reg) (f : Byte) : opField (formatXF o x f) = o := opField_formatXNN o x f

@[simp] theorem xField_formatXF (o : Nibble) (x : Reg) (f : Byte) : xField (formatXF o x f) = x := xField_formatXNN o x f

@[simp] theorem nnField_formatXF (o : Nibble) (x : Reg) (f : Byte) : nnField (formatXF o x f) = f := nnField_formatXNN o x f

@[simp] theorem opField_formatXYN (o : Nibble) (x y : Reg) (n : Nibble) : opField (formatXYN o x y n) = o := by
  refine BitVec.eq_of_getLsbD_eq fun k hk => ?_
  simp [opField, getLsbD_formatXYN, hk, show ¬12 + k < 8 by omega, show ¬12 + k < 4 by omega]

@[simp] theorem xField_formatXYN (o : Nibble) (x y : Reg) (n : Nibble) : xField (formatXYN o x y n) = x := by
  refine BitVec.eq_of_getLsbD_eq fun k hk => ?_
  simp [xField, getLsbD_formatXYN, hk, show 8 + k < 12 by omega, show ¬8 + k < 4 by omega]

@[simp] theorem yField_formatXYN (o : Nibble) (x y : Reg) (n : Nibble) : yField (formatXYN o x y n) = y := by
  refine BitVec.eq_of_getLsbD_eq fun k hk => ?_
  simp [yField, getLsbD_formatXYN, hk, show 4 + k < 8 by omega]

@[simp] theorem nField_formatXYN (o : Nibble) (x y : Reg) (n : Nibble) : nField (formatXYN o x y n) = n := by
  refine BitVec.eq_of_getLsbD_eq fun k hk => ?_
  simp [nField, getLsbD_formatXYN, hk]

/-! ### Masks of a format -/

theorem formatA_mask (o : Nibble) (n : Addr) : formatA o n &&& 0xF000#16 = formatA o 0 := by
  refine BitVec.eq_of_getLsbD_eq fun k hk => ?_
  rw [BitVec.getLsbD_and, getLsbD_formatA, getLsbD_formatA]
  interval_cases k <;> simp

theorem formatXNN_mask (o : Nibble) (x : Reg) (n : Byte) : formatXNN o x n &&& 0xF000#16 = formatXNN o 0 0 := by
  refine BitVec.eq_of_getLsbD_eq fun k hk => ?_
  rw [BitVec.getLsbD_and, getLsbD_formatXNN, getLsbD_formatXNN]
  interval_cases k <;> simp

theorem formatXF_mask (o : Nibble) (x : Reg) (f : Byte) : formatXF o x f &&& 0xF0FF#16 = formatXF o 0 f := by
  refine BitVec.eq_of_getLsbD_eq fun k hk => ?_
  rw [BitVec.getLsbD_and, getLsbD_formatXF, getLsbD_formatXF]
  interval_cases k <;> simp

theorem formatXYN_mask (o : Nibble) (x y : Reg) (n : Nibble) : formatXYN o x y n &&& 0xF00F#16 = formatXYN o 0 0 n := by
  refine BitVec.eq_of_getLsbD_eq fun k hk => ?_
  rw [BitVec.getLsbD_and, getLsbD_formatXYN, getLsbD_formatXYN]
  interval_cases k <;> simp

theorem formatXYN_opMask (o : Nibble) (x y : Reg) (n : Nibble) : formatXYN o x y n &&& 0xF000#16 = formatXYN o 0 0 0 := by
  refine BitVec.eq_of_getLsbD_eq fun k hk => ?_
  rw [BitVec.getLsbD_and, getLsbD_formatXYN, getLsbD_formatXYN]
  interval_cases k <;> simp

end Sys2Proof
end

