-- ==== Sys2Proof/Laws/State.lean ====
section
/-! SUPPORT. One lemma per field per update of the state, true by rfl, so that no proof unfolds a record update. -/

namespace Sys2Proof.Machine

/-! ### Updates of the working state -/

@[simp] theorem MachineState.setMem_mem (w : MachineState) (m : Memory) : (w.setMem m).mem = m := rfl
@[simp] theorem MachineState.setMem_v (w : MachineState) (m : Memory) : (w.setMem m).v = w.v := rfl
@[simp] theorem MachineState.setMem_i (w : MachineState) (m : Memory) : (w.setMem m).i = w.i := rfl
@[simp] theorem MachineState.setMem_pc (w : MachineState) (m : Memory) : (w.setMem m).pc = w.pc := rfl
@[simp] theorem MachineState.setMem_stack (w : MachineState) (m : Memory) : (w.setMem m).stack = w.stack := rfl
@[simp] theorem MachineState.setMem_disp (w : MachineState) (m : Memory) : (w.setMem m).disp = w.disp := rfl
@[simp] theorem MachineState.setMem_dt (w : MachineState) (m : Memory) : (w.setMem m).dt = w.dt := rfl
@[simp] theorem MachineState.setMem_st (w : MachineState) (m : Memory) : (w.setMem m).st = w.st := rfl
@[simp] theorem MachineState.setMem_keys (w : MachineState) (m : Memory) : (w.setMem m).keys = w.keys := rfl
@[simp] theorem MachineState.setMem_status (w : MachineState) (m : Memory) : (w.setMem m).status = w.status := rfl
@[simp] theorem MachineState.setMem_fault (w : MachineState) (m : Memory) : (w.setMem m).fault = w.fault := rfl
@[simp] theorem MachineState.setMem_reg (w : MachineState) (m : Memory) (y : Reg) : (w.setMem m).reg y = w.reg y := rfl

@[simp] theorem MachineState.setReg_mem (w : MachineState) (x : Reg) (b : Byte) : (w.setReg x b).mem = w.mem := rfl
@[simp] theorem MachineState.setReg_i (w : MachineState) (x : Reg) (b : Byte) : (w.setReg x b).i = w.i := rfl
@[simp] theorem MachineState.setReg_pc (w : MachineState) (x : Reg) (b : Byte) : (w.setReg x b).pc = w.pc := rfl
@[simp] theorem MachineState.setReg_stack (w : MachineState) (x : Reg) (b : Byte) : (w.setReg x b).stack = w.stack := rfl
@[simp] theorem MachineState.setReg_disp (w : MachineState) (x : Reg) (b : Byte) : (w.setReg x b).disp = w.disp := rfl
@[simp] theorem MachineState.setReg_dt (w : MachineState) (x : Reg) (b : Byte) : (w.setReg x b).dt = w.dt := rfl
@[simp] theorem MachineState.setReg_st (w : MachineState) (x : Reg) (b : Byte) : (w.setReg x b).st = w.st := rfl
@[simp] theorem MachineState.setReg_keys (w : MachineState) (x : Reg) (b : Byte) : (w.setReg x b).keys = w.keys := rfl
@[simp] theorem MachineState.setReg_status (w : MachineState) (x : Reg) (b : Byte) : (w.setReg x b).status = w.status := rfl
@[simp] theorem MachineState.setReg_fault (w : MachineState) (x : Reg) (b : Byte) : (w.setReg x b).fault = w.fault := rfl

@[simp] theorem MachineState.setRegs_mem (w : MachineState) (bs : List Byte) : (w.setRegs bs).mem = w.mem := rfl
@[simp] theorem MachineState.setRegs_i (w : MachineState) (bs : List Byte) : (w.setRegs bs).i = w.i := rfl
@[simp] theorem MachineState.setRegs_pc (w : MachineState) (bs : List Byte) : (w.setRegs bs).pc = w.pc := rfl
@[simp] theorem MachineState.setRegs_stack (w : MachineState) (bs : List Byte) : (w.setRegs bs).stack = w.stack := rfl
@[simp] theorem MachineState.setRegs_disp (w : MachineState) (bs : List Byte) : (w.setRegs bs).disp = w.disp := rfl
@[simp] theorem MachineState.setRegs_dt (w : MachineState) (bs : List Byte) : (w.setRegs bs).dt = w.dt := rfl
@[simp] theorem MachineState.setRegs_st (w : MachineState) (bs : List Byte) : (w.setRegs bs).st = w.st := rfl
@[simp] theorem MachineState.setRegs_keys (w : MachineState) (bs : List Byte) : (w.setRegs bs).keys = w.keys := rfl
@[simp] theorem MachineState.setRegs_status (w : MachineState) (bs : List Byte) : (w.setRegs bs).status = w.status := rfl
@[simp] theorem MachineState.setRegs_fault (w : MachineState) (bs : List Byte) : (w.setRegs bs).fault = w.fault := rfl

@[simp] theorem MachineState.setI_mem (w : MachineState) (a : Word) : (w.setI a).mem = w.mem := rfl
@[simp] theorem MachineState.setI_v (w : MachineState) (a : Word) : (w.setI a).v = w.v := rfl
@[simp] theorem MachineState.setI_i (w : MachineState) (a : Word) : (w.setI a).i = a := rfl
@[simp] theorem MachineState.setI_pc (w : MachineState) (a : Word) : (w.setI a).pc = w.pc := rfl
@[simp] theorem MachineState.setI_stack (w : MachineState) (a : Word) : (w.setI a).stack = w.stack := rfl
@[simp] theorem MachineState.setI_disp (w : MachineState) (a : Word) : (w.setI a).disp = w.disp := rfl
@[simp] theorem MachineState.setI_dt (w : MachineState) (a : Word) : (w.setI a).dt = w.dt := rfl
@[simp] theorem MachineState.setI_st (w : MachineState) (a : Word) : (w.setI a).st = w.st := rfl
@[simp] theorem MachineState.setI_keys (w : MachineState) (a : Word) : (w.setI a).keys = w.keys := rfl
@[simp] theorem MachineState.setI_status (w : MachineState) (a : Word) : (w.setI a).status = w.status := rfl
@[simp] theorem MachineState.setI_fault (w : MachineState) (a : Word) : (w.setI a).fault = w.fault := rfl
@[simp] theorem MachineState.setI_reg (w : MachineState) (a : Word) (y : Reg) : (w.setI a).reg y = w.reg y := rfl

@[simp] theorem MachineState.setPc_mem (w : MachineState) (a : Word) : (w.setPc a).mem = w.mem := rfl
@[simp] theorem MachineState.setPc_v (w : MachineState) (a : Word) : (w.setPc a).v = w.v := rfl
@[simp] theorem MachineState.setPc_i (w : MachineState) (a : Word) : (w.setPc a).i = w.i := rfl
@[simp] theorem MachineState.setPc_pc (w : MachineState) (a : Word) : (w.setPc a).pc = a := rfl
@[simp] theorem MachineState.setPc_stack (w : MachineState) (a : Word) : (w.setPc a).stack = w.stack := rfl
@[simp] theorem MachineState.setPc_disp (w : MachineState) (a : Word) : (w.setPc a).disp = w.disp := rfl
@[simp] theorem MachineState.setPc_dt (w : MachineState) (a : Word) : (w.setPc a).dt = w.dt := rfl
@[simp] theorem MachineState.setPc_st (w : MachineState) (a : Word) : (w.setPc a).st = w.st := rfl
@[simp] theorem MachineState.setPc_keys (w : MachineState) (a : Word) : (w.setPc a).keys = w.keys := rfl
@[simp] theorem MachineState.setPc_status (w : MachineState) (a : Word) : (w.setPc a).status = w.status := rfl
@[simp] theorem MachineState.setPc_fault (w : MachineState) (a : Word) : (w.setPc a).fault = w.fault := rfl
@[simp] theorem MachineState.setPc_reg (w : MachineState) (a : Word) (y : Reg) : (w.setPc a).reg y = w.reg y := rfl

@[simp] theorem MachineState.setStack_mem (w : MachineState) (l : List Word) : (w.setStack l).mem = w.mem := rfl
@[simp] theorem MachineState.setStack_v (w : MachineState) (l : List Word) : (w.setStack l).v = w.v := rfl
@[simp] theorem MachineState.setStack_i (w : MachineState) (l : List Word) : (w.setStack l).i = w.i := rfl
@[simp] theorem MachineState.setStack_pc (w : MachineState) (l : List Word) : (w.setStack l).pc = w.pc := rfl
@[simp] theorem MachineState.setStack_stack (w : MachineState) (l : List Word) : (w.setStack l).stack = l := rfl
@[simp] theorem MachineState.setStack_disp (w : MachineState) (l : List Word) : (w.setStack l).disp = w.disp := rfl
@[simp] theorem MachineState.setStack_dt (w : MachineState) (l : List Word) : (w.setStack l).dt = w.dt := rfl
@[simp] theorem MachineState.setStack_st (w : MachineState) (l : List Word) : (w.setStack l).st = w.st := rfl
@[simp] theorem MachineState.setStack_keys (w : MachineState) (l : List Word) : (w.setStack l).keys = w.keys := rfl
@[simp] theorem MachineState.setStack_status (w : MachineState) (l : List Word) : (w.setStack l).status = w.status := rfl
@[simp] theorem MachineState.setStack_fault (w : MachineState) (l : List Word) : (w.setStack l).fault = w.fault := rfl
@[simp] theorem MachineState.setStack_reg (w : MachineState) (l : List Word) (y : Reg) : (w.setStack l).reg y = w.reg y := rfl

@[simp] theorem MachineState.setDisp_mem (w : MachineState) (d : Display) : (w.setDisp d).mem = w.mem := rfl
@[simp] theorem MachineState.setDisp_v (w : MachineState) (d : Display) : (w.setDisp d).v = w.v := rfl
@[simp] theorem MachineState.setDisp_i (w : MachineState) (d : Display) : (w.setDisp d).i = w.i := rfl
@[simp] theorem MachineState.setDisp_pc (w : MachineState) (d : Display) : (w.setDisp d).pc = w.pc := rfl
@[simp] theorem MachineState.setDisp_stack (w : MachineState) (d : Display) : (w.setDisp d).stack = w.stack := rfl
@[simp] theorem MachineState.setDisp_disp (w : MachineState) (d : Display) : (w.setDisp d).disp = d := rfl
@[simp] theorem MachineState.setDisp_dt (w : MachineState) (d : Display) : (w.setDisp d).dt = w.dt := rfl
@[simp] theorem MachineState.setDisp_st (w : MachineState) (d : Display) : (w.setDisp d).st = w.st := rfl
@[simp] theorem MachineState.setDisp_keys (w : MachineState) (d : Display) : (w.setDisp d).keys = w.keys := rfl
@[simp] theorem MachineState.setDisp_status (w : MachineState) (d : Display) : (w.setDisp d).status = w.status := rfl
@[simp] theorem MachineState.setDisp_fault (w : MachineState) (d : Display) : (w.setDisp d).fault = w.fault := rfl
@[simp] theorem MachineState.setDisp_reg (w : MachineState) (d : Display) (y : Reg) : (w.setDisp d).reg y = w.reg y := rfl

@[simp] theorem MachineState.setDt_mem (w : MachineState) (b : Byte) : (w.setDt b).mem = w.mem := rfl
@[simp] theorem MachineState.setDt_v (w : MachineState) (b : Byte) : (w.setDt b).v = w.v := rfl
@[simp] theorem MachineState.setDt_i (w : MachineState) (b : Byte) : (w.setDt b).i = w.i := rfl
@[simp] theorem MachineState.setDt_pc (w : MachineState) (b : Byte) : (w.setDt b).pc = w.pc := rfl
@[simp] theorem MachineState.setDt_stack (w : MachineState) (b : Byte) : (w.setDt b).stack = w.stack := rfl
@[simp] theorem MachineState.setDt_disp (w : MachineState) (b : Byte) : (w.setDt b).disp = w.disp := rfl
@[simp] theorem MachineState.setDt_dt (w : MachineState) (b : Byte) : (w.setDt b).dt = b := rfl
@[simp] theorem MachineState.setDt_st (w : MachineState) (b : Byte) : (w.setDt b).st = w.st := rfl
@[simp] theorem MachineState.setDt_keys (w : MachineState) (b : Byte) : (w.setDt b).keys = w.keys := rfl
@[simp] theorem MachineState.setDt_status (w : MachineState) (b : Byte) : (w.setDt b).status = w.status := rfl
@[simp] theorem MachineState.setDt_fault (w : MachineState) (b : Byte) : (w.setDt b).fault = w.fault := rfl
@[simp] theorem MachineState.setDt_reg (w : MachineState) (b : Byte) (y : Reg) : (w.setDt b).reg y = w.reg y := rfl

@[simp] theorem MachineState.setSt_mem (w : MachineState) (b : Byte) : (w.setSt b).mem = w.mem := rfl
@[simp] theorem MachineState.setSt_v (w : MachineState) (b : Byte) : (w.setSt b).v = w.v := rfl
@[simp] theorem MachineState.setSt_i (w : MachineState) (b : Byte) : (w.setSt b).i = w.i := rfl
@[simp] theorem MachineState.setSt_pc (w : MachineState) (b : Byte) : (w.setSt b).pc = w.pc := rfl
@[simp] theorem MachineState.setSt_stack (w : MachineState) (b : Byte) : (w.setSt b).stack = w.stack := rfl
@[simp] theorem MachineState.setSt_disp (w : MachineState) (b : Byte) : (w.setSt b).disp = w.disp := rfl
@[simp] theorem MachineState.setSt_dt (w : MachineState) (b : Byte) : (w.setSt b).dt = w.dt := rfl
@[simp] theorem MachineState.setSt_st (w : MachineState) (b : Byte) : (w.setSt b).st = b := rfl
@[simp] theorem MachineState.setSt_keys (w : MachineState) (b : Byte) : (w.setSt b).keys = w.keys := rfl
@[simp] theorem MachineState.setSt_status (w : MachineState) (b : Byte) : (w.setSt b).status = w.status := rfl
@[simp] theorem MachineState.setSt_fault (w : MachineState) (b : Byte) : (w.setSt b).fault = w.fault := rfl
@[simp] theorem MachineState.setSt_reg (w : MachineState) (b : Byte) (y : Reg) : (w.setSt b).reg y = w.reg y := rfl

@[simp] theorem MachineState.setKeys_mem (w : MachineState) (m : Word) : (w.setKeys m).mem = w.mem := rfl
@[simp] theorem MachineState.setKeys_v (w : MachineState) (m : Word) : (w.setKeys m).v = w.v := rfl
@[simp] theorem MachineState.setKeys_i (w : MachineState) (m : Word) : (w.setKeys m).i = w.i := rfl
@[simp] theorem MachineState.setKeys_pc (w : MachineState) (m : Word) : (w.setKeys m).pc = w.pc := rfl
@[simp] theorem MachineState.setKeys_stack (w : MachineState) (m : Word) : (w.setKeys m).stack = w.stack := rfl
@[simp] theorem MachineState.setKeys_disp (w : MachineState) (m : Word) : (w.setKeys m).disp = w.disp := rfl
@[simp] theorem MachineState.setKeys_dt (w : MachineState) (m : Word) : (w.setKeys m).dt = w.dt := rfl
@[simp] theorem MachineState.setKeys_st (w : MachineState) (m : Word) : (w.setKeys m).st = w.st := rfl
@[simp] theorem MachineState.setKeys_keys (w : MachineState) (m : Word) : (w.setKeys m).keys = m := rfl
@[simp] theorem MachineState.setKeys_status (w : MachineState) (m : Word) : (w.setKeys m).status = w.status := rfl
@[simp] theorem MachineState.setKeys_fault (w : MachineState) (m : Word) : (w.setKeys m).fault = w.fault := rfl
@[simp] theorem MachineState.setKeys_reg (w : MachineState) (m : Word) (y : Reg) : (w.setKeys m).reg y = w.reg y := rfl

@[simp] theorem MachineState.terminate_mem (w : MachineState) : w.terminate.mem = w.mem := rfl
@[simp] theorem MachineState.terminate_v (w : MachineState) : w.terminate.v = w.v := rfl
@[simp] theorem MachineState.terminate_i (w : MachineState) : w.terminate.i = w.i := rfl
@[simp] theorem MachineState.terminate_pc (w : MachineState) : w.terminate.pc = w.pc := rfl
@[simp] theorem MachineState.terminate_stack (w : MachineState) : w.terminate.stack = w.stack := rfl
@[simp] theorem MachineState.terminate_disp (w : MachineState) : w.terminate.disp = w.disp := rfl
@[simp] theorem MachineState.terminate_dt (w : MachineState) : w.terminate.dt = w.dt := rfl
@[simp] theorem MachineState.terminate_st (w : MachineState) : w.terminate.st = w.st := rfl
@[simp] theorem MachineState.terminate_keys (w : MachineState) : w.terminate.keys = w.keys := rfl
@[simp] theorem MachineState.terminate_status (w : MachineState) : w.terminate.status = .terminated := rfl
@[simp] theorem MachineState.terminate_fault (w : MachineState) : w.terminate.fault = w.fault := rfl
@[simp] theorem MachineState.terminate_reg (w : MachineState) (y : Reg) : w.terminate.reg y = w.reg y := rfl

@[simp] theorem MachineState.record_mem (w : MachineState) (r : FaultRecord) : (w.record r).mem = w.mem := rfl
@[simp] theorem MachineState.record_v (w : MachineState) (r : FaultRecord) : (w.record r).v = w.v := rfl
@[simp] theorem MachineState.record_i (w : MachineState) (r : FaultRecord) : (w.record r).i = w.i := rfl
@[simp] theorem MachineState.record_pc (w : MachineState) (r : FaultRecord) : (w.record r).pc = w.pc := rfl
@[simp] theorem MachineState.record_stack (w : MachineState) (r : FaultRecord) : (w.record r).stack = w.stack := rfl
@[simp] theorem MachineState.record_disp (w : MachineState) (r : FaultRecord) : (w.record r).disp = w.disp := rfl
@[simp] theorem MachineState.record_dt (w : MachineState) (r : FaultRecord) : (w.record r).dt = w.dt := rfl
@[simp] theorem MachineState.record_st (w : MachineState) (r : FaultRecord) : (w.record r).st = w.st := rfl
@[simp] theorem MachineState.record_keys (w : MachineState) (r : FaultRecord) : (w.record r).keys = w.keys := rfl
@[simp] theorem MachineState.record_status (w : MachineState) (r : FaultRecord) : (w.record r).status = w.status := rfl
@[simp] theorem MachineState.record_fault (w : MachineState) (r : FaultRecord) : (w.record r).fault = some r := rfl
@[simp] theorem MachineState.record_reg (w : MachineState) (r : FaultRecord) (y : Reg) : (w.record r).reg y = w.reg y := rfl

/-! ### Updates of the block -/

@[simp] theorem State.setWork_cfg (s : State) (w : MachineState) : (s.setWork w).cfg = s.cfg := rfl
@[simp] theorem State.setWork_work (s : State) (w : MachineState) : (s.setWork w).work = w := rfl
@[simp] theorem State.setWork_fifo (s : State) (w : MachineState) : (s.setWork w).fifo = s.fifo := rfl
@[simp] theorem State.setWork_fifoOverflow (s : State) (w : MachineState) : (s.setWork w).fifoOverflow = s.fifoOverflow := rfl
@[simp] theorem State.setWork_fastPhase (s : State) (w : MachineState) : (s.setWork w).fastPhase = s.fastPhase := rfl
@[simp] theorem State.setWork_fastStopped (s : State) (w : MachineState) : (s.setWork w).fastStopped = s.fastStopped := rfl
@[simp] theorem State.setWork_snap (s : State) (w : MachineState) : (s.setWork w).snap = s.snap := rfl
@[simp] theorem State.setWork_lastKeysSent (s : State) (w : MachineState) : (s.setWork w).lastKeysSent = s.lastKeysSent := rfl
@[simp] theorem State.setWork_sounding (s : State) (w : MachineState) : (s.setWork w).sounding = s.sounding := rfl
@[simp] theorem State.setWork_frameSnap (s : State) (w : MachineState) : (s.setWork w).frameSnap = s.frameSnap := rfl
@[simp] theorem State.setWork_slowPhase (s : State) (w : MachineState) : (s.setWork w).slowPhase = s.slowPhase := rfl
@[simp] theorem State.setWork_slowStopped (s : State) (w : MachineState) : (s.setWork w).slowStopped = s.slowStopped := rfl
@[simp] theorem State.setWork_loadError (s : State) (w : MachineState) : (s.setWork w).loadError = s.loadError := rfl
@[simp] theorem State.setWork_turns (s : State) (w : MachineState) : (s.setWork w).turns = s.turns := rfl
@[simp] theorem State.setWork_keysIn (s : State) (w : MachineState) : (s.setWork w).keysIn = s.keysIn := rfl
@[simp] theorem State.setWork_quitIn (s : State) (w : MachineState) : (s.setWork w).quitIn = s.quitIn := rfl
@[simp] theorem State.setWork_draws (s : State) (w : MachineState) : (s.setWork w).draws = s.draws := rfl

@[simp] theorem State.afterDraw_cfg (s : State) : s.afterDraw.cfg = s.cfg := rfl
@[simp] theorem State.afterDraw_work (s : State) : s.afterDraw.work = s.work := rfl
@[simp] theorem State.afterDraw_fifo (s : State) : s.afterDraw.fifo = s.fifo := rfl
@[simp] theorem State.afterDraw_fifoOverflow (s : State) : s.afterDraw.fifoOverflow = s.fifoOverflow := rfl
@[simp] theorem State.afterDraw_fastPhase (s : State) : s.afterDraw.fastPhase = s.fastPhase := rfl
@[simp] theorem State.afterDraw_fastStopped (s : State) : s.afterDraw.fastStopped = s.fastStopped := rfl
@[simp] theorem State.afterDraw_snap (s : State) : s.afterDraw.snap = s.snap := rfl
@[simp] theorem State.afterDraw_lastKeysSent (s : State) : s.afterDraw.lastKeysSent = s.lastKeysSent := rfl
@[simp] theorem State.afterDraw_sounding (s : State) : s.afterDraw.sounding = s.sounding := rfl
@[simp] theorem State.afterDraw_frameSnap (s : State) : s.afterDraw.frameSnap = s.frameSnap := rfl
@[simp] theorem State.afterDraw_slowPhase (s : State) : s.afterDraw.slowPhase = s.slowPhase := rfl
@[simp] theorem State.afterDraw_slowStopped (s : State) : s.afterDraw.slowStopped = s.slowStopped := rfl
@[simp] theorem State.afterDraw_loadError (s : State) : s.afterDraw.loadError = s.loadError := rfl
@[simp] theorem State.afterDraw_turns (s : State) : s.afterDraw.turns = s.turns := rfl
@[simp] theorem State.afterDraw_keysIn (s : State) : s.afterDraw.keysIn = s.keysIn := rfl
@[simp] theorem State.afterDraw_quitIn (s : State) : s.afterDraw.quitIn = s.quitIn := rfl
@[simp] theorem State.afterDraw_draws (s : State) : s.afterDraw.draws = afterValue s.draws := rfl

@[simp] theorem State.jump_cfg (s : State) (a : Word) : (s.jump a).cfg = s.cfg := rfl
@[simp] theorem State.jump_work (s : State) (a : Word) : (s.jump a).work = s.work.setPc a := rfl
@[simp] theorem State.jump_fifo (s : State) (a : Word) : (s.jump a).fifo = s.fifo := rfl
@[simp] theorem State.jump_fifoOverflow (s : State) (a : Word) : (s.jump a).fifoOverflow = s.fifoOverflow := rfl
@[simp] theorem State.jump_fastPhase (s : State) (a : Word) : (s.jump a).fastPhase = s.fastPhase := rfl
@[simp] theorem State.jump_fastStopped (s : State) (a : Word) : (s.jump a).fastStopped = s.fastStopped := rfl
@[simp] theorem State.jump_snap (s : State) (a : Word) : (s.jump a).snap = s.snap := rfl
@[simp] theorem State.jump_lastKeysSent (s : State) (a : Word) : (s.jump a).lastKeysSent = s.lastKeysSent := rfl
@[simp] theorem State.jump_sounding (s : State) (a : Word) : (s.jump a).sounding = s.sounding := rfl
@[simp] theorem State.jump_frameSnap (s : State) (a : Word) : (s.jump a).frameSnap = s.frameSnap := rfl
@[simp] theorem State.jump_slowPhase (s : State) (a : Word) : (s.jump a).slowPhase = s.slowPhase := rfl
@[simp] theorem State.jump_slowStopped (s : State) (a : Word) : (s.jump a).slowStopped = s.slowStopped := rfl
@[simp] theorem State.jump_loadError (s : State) (a : Word) : (s.jump a).loadError = s.loadError := rfl
@[simp] theorem State.jump_turns (s : State) (a : Word) : (s.jump a).turns = s.turns := rfl
@[simp] theorem State.jump_keysIn (s : State) (a : Word) : (s.jump a).keysIn = s.keysIn := rfl
@[simp] theorem State.jump_quitIn (s : State) (a : Word) : (s.jump a).quitIn = s.quitIn := rfl
@[simp] theorem State.jump_draws (s : State) (a : Word) : (s.jump a).draws = s.draws := rfl

@[simp] theorem State.push_cfg (s : State) (a : Word) : (s.push a).cfg = s.cfg := rfl
@[simp] theorem State.push_work (s : State) (a : Word) : (s.push a).work = s.work.setStack (s.work.stack ++ [a]) := rfl
@[simp] theorem State.push_fifo (s : State) (a : Word) : (s.push a).fifo = s.fifo := rfl
@[simp] theorem State.push_fifoOverflow (s : State) (a : Word) : (s.push a).fifoOverflow = s.fifoOverflow := rfl
@[simp] theorem State.push_fastPhase (s : State) (a : Word) : (s.push a).fastPhase = s.fastPhase := rfl
@[simp] theorem State.push_fastStopped (s : State) (a : Word) : (s.push a).fastStopped = s.fastStopped := rfl
@[simp] theorem State.push_snap (s : State) (a : Word) : (s.push a).snap = s.snap := rfl
@[simp] theorem State.push_lastKeysSent (s : State) (a : Word) : (s.push a).lastKeysSent = s.lastKeysSent := rfl
@[simp] theorem State.push_sounding (s : State) (a : Word) : (s.push a).sounding = s.sounding := rfl
@[simp] theorem State.push_frameSnap (s : State) (a : Word) : (s.push a).frameSnap = s.frameSnap := rfl
@[simp] theorem State.push_slowPhase (s : State) (a : Word) : (s.push a).slowPhase = s.slowPhase := rfl
@[simp] theorem State.push_slowStopped (s : State) (a : Word) : (s.push a).slowStopped = s.slowStopped := rfl
@[simp] theorem State.push_loadError (s : State) (a : Word) : (s.push a).loadError = s.loadError := rfl
@[simp] theorem State.push_turns (s : State) (a : Word) : (s.push a).turns = s.turns := rfl
@[simp] theorem State.push_keysIn (s : State) (a : Word) : (s.push a).keysIn = s.keysIn := rfl
@[simp] theorem State.push_quitIn (s : State) (a : Word) : (s.push a).quitIn = s.quitIn := rfl
@[simp] theorem State.push_draws (s : State) (a : Word) : (s.push a).draws = s.draws := rfl

@[simp] theorem State.popped_cfg (s : State) : s.popped.cfg = s.cfg := rfl
@[simp] theorem State.popped_work (s : State) : s.popped.work = s.work.setStack s.work.stack.dropLast := rfl
@[simp] theorem State.popped_fifo (s : State) : s.popped.fifo = s.fifo := rfl
@[simp] theorem State.popped_fifoOverflow (s : State) : s.popped.fifoOverflow = s.fifoOverflow := rfl
@[simp] theorem State.popped_fastPhase (s : State) : s.popped.fastPhase = s.fastPhase := rfl
@[simp] theorem State.popped_fastStopped (s : State) : s.popped.fastStopped = s.fastStopped := rfl
@[simp] theorem State.popped_snap (s : State) : s.popped.snap = s.snap := rfl
@[simp] theorem State.popped_lastKeysSent (s : State) : s.popped.lastKeysSent = s.lastKeysSent := rfl
@[simp] theorem State.popped_sounding (s : State) : s.popped.sounding = s.sounding := rfl
@[simp] theorem State.popped_frameSnap (s : State) : s.popped.frameSnap = s.frameSnap := rfl
@[simp] theorem State.popped_slowPhase (s : State) : s.popped.slowPhase = s.slowPhase := rfl
@[simp] theorem State.popped_slowStopped (s : State) : s.popped.slowStopped = s.slowStopped := rfl
@[simp] theorem State.popped_loadError (s : State) : s.popped.loadError = s.loadError := rfl
@[simp] theorem State.popped_turns (s : State) : s.popped.turns = s.turns := rfl
@[simp] theorem State.popped_keysIn (s : State) : s.popped.keysIn = s.keysIn := rfl
@[simp] theorem State.popped_quitIn (s : State) : s.popped.quitIn = s.quitIn := rfl
@[simp] theorem State.popped_draws (s : State) : s.popped.draws = s.draws := rfl

@[simp] theorem State.storeBytes_cfg (s : State) (a : Nat) (bs : List Byte) : (s.storeBytes a bs).cfg = s.cfg := rfl
@[simp] theorem State.storeBytes_work (s : State) (a : Nat) (bs : List Byte) : (s.storeBytes a bs).work = s.work.setMem (Memory.writeBytes s.cfg.font s.work.mem a bs) := rfl
@[simp] theorem State.storeBytes_fifo (s : State) (a : Nat) (bs : List Byte) : (s.storeBytes a bs).fifo = s.fifo := rfl
@[simp] theorem State.storeBytes_fifoOverflow (s : State) (a : Nat) (bs : List Byte) : (s.storeBytes a bs).fifoOverflow = s.fifoOverflow := rfl
@[simp] theorem State.storeBytes_fastPhase (s : State) (a : Nat) (bs : List Byte) : (s.storeBytes a bs).fastPhase = s.fastPhase := rfl
@[simp] theorem State.storeBytes_fastStopped (s : State) (a : Nat) (bs : List Byte) : (s.storeBytes a bs).fastStopped = s.fastStopped := rfl
@[simp] theorem State.storeBytes_snap (s : State) (a : Nat) (bs : List Byte) : (s.storeBytes a bs).snap = s.snap := rfl
@[simp] theorem State.storeBytes_lastKeysSent (s : State) (a : Nat) (bs : List Byte) : (s.storeBytes a bs).lastKeysSent = s.lastKeysSent := rfl
@[simp] theorem State.storeBytes_sounding (s : State) (a : Nat) (bs : List Byte) : (s.storeBytes a bs).sounding = s.sounding := rfl
@[simp] theorem State.storeBytes_frameSnap (s : State) (a : Nat) (bs : List Byte) : (s.storeBytes a bs).frameSnap = s.frameSnap := rfl
@[simp] theorem State.storeBytes_slowPhase (s : State) (a : Nat) (bs : List Byte) : (s.storeBytes a bs).slowPhase = s.slowPhase := rfl
@[simp] theorem State.storeBytes_slowStopped (s : State) (a : Nat) (bs : List Byte) : (s.storeBytes a bs).slowStopped = s.slowStopped := rfl
@[simp] theorem State.storeBytes_loadError (s : State) (a : Nat) (bs : List Byte) : (s.storeBytes a bs).loadError = s.loadError := rfl
@[simp] theorem State.storeBytes_turns (s : State) (a : Nat) (bs : List Byte) : (s.storeBytes a bs).turns = s.turns := rfl
@[simp] theorem State.storeBytes_keysIn (s : State) (a : Nat) (bs : List Byte) : (s.storeBytes a bs).keysIn = s.keysIn := rfl
@[simp] theorem State.storeBytes_quitIn (s : State) (a : Nat) (bs : List Byte) : (s.storeBytes a bs).quitIn = s.quitIn := rfl
@[simp] theorem State.storeBytes_draws (s : State) (a : Nat) (bs : List Byte) : (s.storeBytes a bs).draws = s.draws := rfl

@[simp] theorem State.advance_cfg (s : State) : s.advance.cfg = s.cfg := rfl
@[simp] theorem State.advance_work (s : State) : s.advance.work = s.work.setPc (s.work.pc + 2) := rfl
@[simp] theorem State.advance_fifo (s : State) : s.advance.fifo = s.fifo := rfl
@[simp] theorem State.advance_fifoOverflow (s : State) : s.advance.fifoOverflow = s.fifoOverflow := rfl
@[simp] theorem State.advance_fastPhase (s : State) : s.advance.fastPhase = .publish := rfl
@[simp] theorem State.advance_fastStopped (s : State) : s.advance.fastStopped = s.fastStopped := rfl
@[simp] theorem State.advance_snap (s : State) : s.advance.snap = s.snap := rfl
@[simp] theorem State.advance_lastKeysSent (s : State) : s.advance.lastKeysSent = s.lastKeysSent := rfl
@[simp] theorem State.advance_sounding (s : State) : s.advance.sounding = s.sounding := rfl
@[simp] theorem State.advance_frameSnap (s : State) : s.advance.frameSnap = s.frameSnap := rfl
@[simp] theorem State.advance_slowPhase (s : State) : s.advance.slowPhase = s.slowPhase := rfl
@[simp] theorem State.advance_slowStopped (s : State) : s.advance.slowStopped = s.slowStopped := rfl
@[simp] theorem State.advance_loadError (s : State) : s.advance.loadError = s.loadError := rfl
@[simp] theorem State.advance_turns (s : State) : s.advance.turns = s.turns := rfl
@[simp] theorem State.advance_keysIn (s : State) : s.advance.keysIn = s.keysIn := rfl
@[simp] theorem State.advance_quitIn (s : State) : s.advance.quitIn = s.quitIn := rfl
@[simp] theorem State.advance_draws (s : State) : s.advance.draws = s.draws := rfl

@[simp] theorem State.retreat_cfg (s : State) : s.retreat.cfg = s.cfg := rfl
@[simp] theorem State.retreat_work (s : State) : s.retreat.work = s.work.setPc (s.work.pc - 2) := rfl
@[simp] theorem State.retreat_fifo (s : State) : s.retreat.fifo = s.fifo := rfl
@[simp] theorem State.retreat_fifoOverflow (s : State) : s.retreat.fifoOverflow = s.fifoOverflow := rfl
@[simp] theorem State.retreat_fastPhase (s : State) : s.retreat.fastPhase = .drain := rfl
@[simp] theorem State.retreat_fastStopped (s : State) : s.retreat.fastStopped = s.fastStopped := rfl
@[simp] theorem State.retreat_snap (s : State) : s.retreat.snap = s.snap := rfl
@[simp] theorem State.retreat_lastKeysSent (s : State) : s.retreat.lastKeysSent = s.lastKeysSent := rfl
@[simp] theorem State.retreat_sounding (s : State) : s.retreat.sounding = s.sounding := rfl
@[simp] theorem State.retreat_frameSnap (s : State) : s.retreat.frameSnap = s.frameSnap := rfl
@[simp] theorem State.retreat_slowPhase (s : State) : s.retreat.slowPhase = s.slowPhase := rfl
@[simp] theorem State.retreat_slowStopped (s : State) : s.retreat.slowStopped = s.slowStopped := rfl
@[simp] theorem State.retreat_loadError (s : State) : s.retreat.loadError = s.loadError := rfl
@[simp] theorem State.retreat_turns (s : State) : s.retreat.turns = s.turns := rfl
@[simp] theorem State.retreat_keysIn (s : State) : s.retreat.keysIn = s.keysIn := rfl
@[simp] theorem State.retreat_quitIn (s : State) : s.retreat.quitIn = s.quitIn := rfl
@[simp] theorem State.retreat_draws (s : State) : s.retreat.draws = s.draws := rfl

@[simp] theorem State.takeFault_cfg (s : State) (c : FaultCode) (n : Word) : (s.takeFault c n).cfg = s.cfg := rfl
@[simp] theorem State.takeFault_work (s : State) (c : FaultCode) (n : Word) : (s.takeFault c n).work = (s.work.record ⟨c, s.work.pc, n⟩).terminate := rfl
@[simp] theorem State.takeFault_fifo (s : State) (c : FaultCode) (n : Word) : (s.takeFault c n).fifo = s.fifo := rfl
@[simp] theorem State.takeFault_fifoOverflow (s : State) (c : FaultCode) (n : Word) : (s.takeFault c n).fifoOverflow = s.fifoOverflow := rfl
@[simp] theorem State.takeFault_fastPhase (s : State) (c : FaultCode) (n : Word) : (s.takeFault c n).fastPhase = s.fastPhase := rfl
@[simp] theorem State.takeFault_fastStopped (s : State) (c : FaultCode) (n : Word) : (s.takeFault c n).fastStopped = true := rfl
@[simp] theorem State.takeFault_snap (s : State) (c : FaultCode) (n : Word) : (s.takeFault c n).snap = (s.work.record ⟨c, s.work.pc, n⟩).terminate := rfl
@[simp] theorem State.takeFault_lastKeysSent (s : State) (c : FaultCode) (n : Word) : (s.takeFault c n).lastKeysSent = s.lastKeysSent := rfl
@[simp] theorem State.takeFault_sounding (s : State) (c : FaultCode) (n : Word) : (s.takeFault c n).sounding = s.sounding := rfl
@[simp] theorem State.takeFault_frameSnap (s : State) (c : FaultCode) (n : Word) : (s.takeFault c n).frameSnap = s.frameSnap := rfl
@[simp] theorem State.takeFault_slowPhase (s : State) (c : FaultCode) (n : Word) : (s.takeFault c n).slowPhase = s.slowPhase := rfl
@[simp] theorem State.takeFault_slowStopped (s : State) (c : FaultCode) (n : Word) : (s.takeFault c n).slowStopped = s.slowStopped := rfl
@[simp] theorem State.takeFault_loadError (s : State) (c : FaultCode) (n : Word) : (s.takeFault c n).loadError = s.loadError := rfl
@[simp] theorem State.takeFault_turns (s : State) (c : FaultCode) (n : Word) : (s.takeFault c n).turns = s.turns := rfl
@[simp] theorem State.takeFault_keysIn (s : State) (c : FaultCode) (n : Word) : (s.takeFault c n).keysIn = s.keysIn := rfl
@[simp] theorem State.takeFault_quitIn (s : State) (c : FaultCode) (n : Word) : (s.takeFault c n).quitIn = s.quitIn := rfl
@[simp] theorem State.takeFault_draws (s : State) (c : FaultCode) (n : Word) : (s.takeFault c n).draws = s.draws := rfl

@[simp] theorem State.drain_cfg (s : State) : s.drain.cfg = s.cfg := rfl
@[simp] theorem State.drain_work (s : State) : s.drain.work = s.work.applySignals s.fifo := rfl
@[simp] theorem State.drain_fifo (s : State) : s.drain.fifo = [] := rfl
@[simp] theorem State.drain_fifoOverflow (s : State) : s.drain.fifoOverflow = s.fifoOverflow := rfl
@[simp] theorem State.drain_fastPhase (s : State) : s.drain.fastPhase = s.fastPhase := rfl
@[simp] theorem State.drain_fastStopped (s : State) : s.drain.fastStopped = s.fastStopped := rfl
@[simp] theorem State.drain_snap (s : State) : s.drain.snap = s.snap := rfl
@[simp] theorem State.drain_lastKeysSent (s : State) : s.drain.lastKeysSent = s.lastKeysSent := rfl
@[simp] theorem State.drain_sounding (s : State) : s.drain.sounding = s.sounding := rfl
@[simp] theorem State.drain_frameSnap (s : State) : s.drain.frameSnap = s.frameSnap := rfl
@[simp] theorem State.drain_slowPhase (s : State) : s.drain.slowPhase = s.slowPhase := rfl
@[simp] theorem State.drain_slowStopped (s : State) : s.drain.slowStopped = s.slowStopped := rfl
@[simp] theorem State.drain_loadError (s : State) : s.drain.loadError = s.loadError := rfl
@[simp] theorem State.drain_turns (s : State) : s.drain.turns = s.turns := rfl
@[simp] theorem State.drain_keysIn (s : State) : s.drain.keysIn = s.keysIn := rfl
@[simp] theorem State.drain_quitIn (s : State) : s.drain.quitIn = s.quitIn := rfl
@[simp] theorem State.drain_draws (s : State) : s.drain.draws = s.draws := rfl

@[simp] theorem State.stopFast_cfg (s : State) : s.stopFast.cfg = s.cfg := rfl
@[simp] theorem State.stopFast_work (s : State) : s.stopFast.work = s.work := rfl
@[simp] theorem State.stopFast_fifo (s : State) : s.stopFast.fifo = s.fifo := rfl
@[simp] theorem State.stopFast_fifoOverflow (s : State) : s.stopFast.fifoOverflow = s.fifoOverflow := rfl
@[simp] theorem State.stopFast_fastPhase (s : State) : s.stopFast.fastPhase = s.fastPhase := rfl
@[simp] theorem State.stopFast_fastStopped (s : State) : s.stopFast.fastStopped = true := rfl
@[simp] theorem State.stopFast_snap (s : State) : s.stopFast.snap = s.snap := rfl
@[simp] theorem State.stopFast_lastKeysSent (s : State) : s.stopFast.lastKeysSent = s.lastKeysSent := rfl
@[simp] theorem State.stopFast_sounding (s : State) : s.stopFast.sounding = s.sounding := rfl
@[simp] theorem State.stopFast_frameSnap (s : State) : s.stopFast.frameSnap = s.frameSnap := rfl
@[simp] theorem State.stopFast_slowPhase (s : State) : s.stopFast.slowPhase = s.slowPhase := rfl
@[simp] theorem State.stopFast_slowStopped (s : State) : s.stopFast.slowStopped = s.slowStopped := rfl
@[simp] theorem State.stopFast_loadError (s : State) : s.stopFast.loadError = s.loadError := rfl
@[simp] theorem State.stopFast_turns (s : State) : s.stopFast.turns = s.turns := rfl
@[simp] theorem State.stopFast_keysIn (s : State) : s.stopFast.keysIn = s.keysIn := rfl
@[simp] theorem State.stopFast_quitIn (s : State) : s.stopFast.quitIn = s.quitIn := rfl
@[simp] theorem State.stopFast_draws (s : State) : s.stopFast.draws = s.draws := rfl

@[simp] theorem State.tickPublish_cfg (s : State) : s.tickPublish.cfg = s.cfg := rfl
@[simp] theorem State.tickPublish_work (s : State) : s.tickPublish.work = s.work := rfl
@[simp] theorem State.tickPublish_fifo (s : State) : s.tickPublish.fifo = s.fifo := rfl
@[simp] theorem State.tickPublish_fifoOverflow (s : State) : s.tickPublish.fifoOverflow = s.fifoOverflow := rfl
@[simp] theorem State.tickPublish_fastPhase (s : State) : s.tickPublish.fastPhase = .drain := rfl
@[simp] theorem State.tickPublish_fastStopped (s : State) : s.tickPublish.fastStopped = s.fastStopped := rfl
@[simp] theorem State.tickPublish_snap (s : State) : s.tickPublish.snap = s.work := rfl
@[simp] theorem State.tickPublish_lastKeysSent (s : State) : s.tickPublish.lastKeysSent = s.lastKeysSent := rfl
@[simp] theorem State.tickPublish_sounding (s : State) : s.tickPublish.sounding = s.sounding := rfl
@[simp] theorem State.tickPublish_frameSnap (s : State) : s.tickPublish.frameSnap = s.frameSnap := rfl
@[simp] theorem State.tickPublish_slowPhase (s : State) : s.tickPublish.slowPhase = s.slowPhase := rfl
@[simp] theorem State.tickPublish_slowStopped (s : State) : s.tickPublish.slowStopped = s.slowStopped := rfl
@[simp] theorem State.tickPublish_loadError (s : State) : s.tickPublish.loadError = s.loadError := rfl
@[simp] theorem State.tickPublish_turns (s : State) : s.tickPublish.turns = s.turns := rfl
@[simp] theorem State.tickPublish_keysIn (s : State) : s.tickPublish.keysIn = s.keysIn := rfl
@[simp] theorem State.tickPublish_quitIn (s : State) : s.tickPublish.quitIn = s.quitIn := rfl
@[simp] theorem State.tickPublish_draws (s : State) : s.tickPublish.draws = s.draws := rfl

@[simp] theorem State.afterTurn_cfg (s : State) : s.afterTurn.cfg = s.cfg := rfl
@[simp] theorem State.afterTurn_work (s : State) : s.afterTurn.work = s.work := rfl
@[simp] theorem State.afterTurn_fifo (s : State) : s.afterTurn.fifo = s.fifo := rfl
@[simp] theorem State.afterTurn_fifoOverflow (s : State) : s.afterTurn.fifoOverflow = s.fifoOverflow := rfl
@[simp] theorem State.afterTurn_fastPhase (s : State) : s.afterTurn.fastPhase = s.fastPhase := rfl
@[simp] theorem State.afterTurn_fastStopped (s : State) : s.afterTurn.fastStopped = s.fastStopped := rfl
@[simp] theorem State.afterTurn_snap (s : State) : s.afterTurn.snap = s.snap := rfl
@[simp] theorem State.afterTurn_lastKeysSent (s : State) : s.afterTurn.lastKeysSent = s.lastKeysSent := rfl
@[simp] theorem State.afterTurn_sounding (s : State) : s.afterTurn.sounding = s.sounding := rfl
@[simp] theorem State.afterTurn_frameSnap (s : State) : s.afterTurn.frameSnap = s.frameSnap := rfl
@[simp] theorem State.afterTurn_slowPhase (s : State) : s.afterTurn.slowPhase = s.slowPhase := rfl
@[simp] theorem State.afterTurn_slowStopped (s : State) : s.afterTurn.slowStopped = s.slowStopped := rfl
@[simp] theorem State.afterTurn_loadError (s : State) : s.afterTurn.loadError = s.loadError := rfl
@[simp] theorem State.afterTurn_turns (s : State) : s.afterTurn.turns = s.turns.after := rfl
@[simp] theorem State.afterTurn_keysIn (s : State) : s.afterTurn.keysIn = s.keysIn := rfl
@[simp] theorem State.afterTurn_quitIn (s : State) : s.afterTurn.quitIn = s.quitIn := rfl
@[simp] theorem State.afterTurn_draws (s : State) : s.afterTurn.draws = s.draws := rfl

/-! ### The turns -/

@[simp] theorem Turns.after_last (a : Agent) (q : Supply Nat) :
    Turns.after ⟨a, 0, q⟩ = ⟨otherAgent a, nextValue Config.freeBurst q, afterValue q⟩ := rfl
@[simp] theorem Turns.after_more (a : Agent) (n : Nat) (q : Supply Nat) : Turns.after ⟨a, n + 1, q⟩ = ⟨a, n, q⟩ := rfl

end Sys2Proof.Machine
end

