-- ==== Sys2Proof/Laws/Memory.lean ====
section
/-! SUPPORT. Memory: the canonical form, read after write, and that every operation keeps the form. -/

namespace Sys2Proof.Machine

variable {font : List Byte} {m m' : Memory} {a b k : Nat} {v : Byte} {bs : List Byte}

@[simp] theorem Memory.wf_nil : Memory.wf font [] = true := rfl

theorem Memory.wf_cons_iff :
    Memory.wf font ((k, v) :: m) = true ↔
      k < Config.memSize ∧ v ≠ Memory.blank font k ∧ (∀ c ∈ m, k < c.1) ∧ Memory.wf font m = true := by
  simp [Memory.wf, and_assoc]

@[simp] theorem Memory.read_nil : Memory.read font [] a = Memory.blank font a := rfl

theorem Memory.read_cons :
    Memory.read font ((k, v) :: m) a = if a = k then v else Memory.read font m a := rfl

/-- Below every listed address memory reads as unlisted. -/
theorem Memory.read_of_lt_all (h : ∀ c ∈ m, a < c.1) : Memory.read font m a = Memory.blank font a := by
  induction m with
  | nil => rfl
  | cons c m ih =>
    obtain ⟨k, w⟩ := c
    have hk : a < k := h (k, w) (by simp)
    rw [Memory.read_cons, if_neg (by omega)]
    exact ih fun c hc => h c (by simp [hc])

theorem Memory.read_consCell (h : ∀ c ∈ m, a < c.1) :
    Memory.read font (Memory.consCell font a v m) b = if b = a then v else Memory.read font m b := by
  unfold Memory.consCell
  split
  · next hv =>
    split
    · next hb => rw [hb, Memory.read_of_lt_all h, hv]
    · rfl
  · exact Memory.read_cons

/-- Read after write: the written byte at its address, every other byte as before. -/
theorem Memory.read_write (hm : Memory.wf font m = true) :
    Memory.read font (Memory.write font m a v) b = if b = a then v else Memory.read font m b := by
  induction m with
  | nil => exact Memory.read_consCell (by simp)
  | cons c m ih =>
    obtain ⟨k, w⟩ := c
    obtain ⟨-, -, hall, hwf⟩ := Memory.wf_cons_iff.1 hm
    unfold Memory.write
    split
    · next hak =>
      refine Memory.read_consCell fun c hc => ?_
      rcases List.mem_cons.1 hc with rfl | hc
      · exact hak
      · exact hak.trans (hall c hc)
    · split
      · next hak =>
        subst hak
        rw [Memory.read_consCell hall, Memory.read_cons]
        split <;> simp_all
      · next hak =>
        rw [Memory.read_cons, Memory.read_cons, ih hwf]
        split
        · next hb => rw [if_neg (by omega)]
        · rfl

theorem Memory.mem_consCell {c : Host.Cell} (h : c ∈ Memory.consCell font a v m) : c = (a, v) ∨ c ∈ m := by
  unfold Memory.consCell at h
  split at h
  · exact .inr h
  · simpa using h

theorem Memory.mem_write {c : Host.Cell} (h : c ∈ Memory.write font m a v) : c.1 = a ∨ c ∈ m := by
  induction m with
  | nil =>
    rcases Memory.mem_consCell h with rfl | h
    · exact .inl rfl
    · exact .inr h
  | cons d m ih =>
    obtain ⟨k, w⟩ := d
    unfold Memory.write at h
    split at h
    · rcases Memory.mem_consCell h with rfl | h
      · exact .inl rfl
      · exact .inr h
    · split at h
      · rcases Memory.mem_consCell h with rfl | h
        · exact .inl rfl
        · exact .inr (List.mem_cons_of_mem _ h)
      · rcases List.mem_cons.1 h with rfl | h
        · exact .inr (by simp)
        · exact (ih h).imp id (List.mem_cons_of_mem _)

theorem Memory.consCell_wf (hm : Memory.wf font m = true) (ha : a < Config.memSize) (h : ∀ c ∈ m, a < c.1) :
    Memory.wf font (Memory.consCell font a v m) = true := by
  unfold Memory.consCell
  split
  · exact hm
  · next hv => exact Memory.wf_cons_iff.2 ⟨ha, hv, h, hm⟩

/-- A write inside the address space keeps the canonical form. -/
theorem Memory.write_wf (hm : Memory.wf font m = true) (ha : a < Config.memSize) :
    Memory.wf font (Memory.write font m a v) = true := by
  induction m with
  | nil => exact Memory.consCell_wf rfl ha (by simp)
  | cons c m ih =>
    obtain ⟨k, w⟩ := c
    obtain ⟨hk, hw, hall, hwf⟩ := Memory.wf_cons_iff.1 hm
    unfold Memory.write
    split
    · next hak =>
      refine Memory.consCell_wf hm ha fun c hc => ?_
      rcases List.mem_cons.1 hc with rfl | hc
      · exact hak
      · exact hak.trans (hall c hc)
    · split
      · next hak =>
        subst hak
        exact Memory.consCell_wf hwf ha hall
      · next hlt hne =>
        refine Memory.wf_cons_iff.2 ⟨hk, hw, fun c hc => ?_, ih hwf⟩
        rcases Memory.mem_write hc with h | h
        · omega
        · exact hall c h

/-- Writing a block inside the address space keeps the canonical form. -/
theorem Memory.writeBytes_wf (hm : Memory.wf font m = true) (ha : a + bs.length ≤ Config.memSize) :
    Memory.wf font (Memory.writeBytes font m a bs) = true := by
  induction bs generalizing m a with
  | nil => exact hm
  | cons b bs ih =>
    simp only [List.length_cons] at ha
    exact ih (Memory.write_wf hm (by omega)) (by omega)

/-- Read after a block write: the block's bytes in their places, every other byte as before. -/
theorem Memory.read_writeBytes (hm : Memory.wf font m = true) (ha : a + bs.length ≤ Config.memSize) :
    Memory.read font (Memory.writeBytes font m a bs) b =
      if a ≤ b ∧ b < a + bs.length then bs.getD (b - a) 0 else Memory.read font m b := by
  induction bs generalizing m a with
  | nil => simp [Memory.writeBytes]
  | cons c bs ih =>
    simp only [List.length_cons] at ha
    rw [Memory.writeBytes, ih (Memory.write_wf hm (by omega)) (by omega), Memory.read_write hm]
    by_cases hb : b = a
    · subst hb
      rw [if_neg (by omega), if_pos rfl, if_pos (by simp)]
      simp
    · rw [if_neg hb]
      by_cases hin : a + 1 ≤ b ∧ b < a + 1 + bs.length
      · rw [if_pos hin, if_pos (by simp only [List.length_cons]; omega)]
        obtain ⟨d, rfl⟩ : ∃ d, b = a + 1 + d := ⟨b - (a + 1), by omega⟩
        rw [show a + 1 + d - (a + 1) = d by omega, show a + 1 + d - a = d + 1 by omega]
        simp
      · rw [if_neg hin, if_neg (by simp only [List.length_cons]; omega)]

theorem Memory.read_eq_blank_of_le (hm : Memory.wf font m = true) (ha : Config.memSize ≤ a) :
    Memory.read font m a = Memory.blank font a := by
  induction m with
  | nil => rfl
  | cons c m ih =>
    obtain ⟨k, w⟩ := c
    obtain ⟨hk, -, -, hwf⟩ := Memory.wf_cons_iff.1 hm
    rw [Memory.read_cons, if_neg (by omega), ih hwf]

/-- Equal memories are equal data: a canonical form is fixed by its bytes. -/
theorem Memory.ext_of_wf (hm : Memory.wf font m = true) (hm' : Memory.wf font m' = true)
    (h : ∀ a, Memory.read font m a = Memory.read font m' a) : m = m' := by
  induction m generalizing m' with
  | nil =>
    cases m' with
    | nil => rfl
    | cons c m' =>
      obtain ⟨k, w⟩ := c
      obtain ⟨-, hw, -, -⟩ := Memory.wf_cons_iff.1 hm'
      have hk := h k
      rw [Memory.read_cons, if_pos rfl] at hk
      exact absurd hk.symm hw
  | cons c m ih =>
    obtain ⟨k, w⟩ := c
    obtain ⟨-, hw, hall, hwf⟩ := Memory.wf_cons_iff.1 hm
    have hk := h k
    rw [Memory.read_cons, if_pos rfl] at hk
    cases m' with
    | nil => exact absurd hk hw
    | cons c' m' =>
      obtain ⟨k', w'⟩ := c'
      obtain ⟨-, hw', hall', hwf'⟩ := Memory.wf_cons_iff.1 hm'
      have hk' := h k'
      rw [Memory.read_cons (k := k'), if_pos rfl] at hk'
      rcases Nat.lt_trichotomy k k' with hlt | rfl | hlt
      · refine absurd (hk.trans (Memory.read_of_lt_all fun c hc => ?_)) hw
        rcases List.mem_cons.1 hc with rfl | hc
        · exact hlt
        · exact hlt.trans (hall' c hc)
      · rw [Memory.read_cons, if_pos rfl] at hk
        subst hk
        congr 1
        refine ih hwf hwf' fun a => ?_
        have ha := h a
        rw [Memory.read_cons, Memory.read_cons] at ha
        by_cases hak : a = k
        · subst hak
          rw [Memory.read_of_lt_all hall, Memory.read_of_lt_all hall']
        · simpa [hak] using ha
      · refine absurd (hk'.symm.trans (Memory.read_of_lt_all fun c hc => ?_)) hw'
        rcases List.mem_cons.1 hc with rfl | hc
        · exact hlt
        · exact hlt.trans (hall c hc)

@[simp] theorem State.readBytes_length (s : State) (a n : Nat) : (s.readBytes a n).length = n := by
  simp [State.readBytes]

theorem State.readBytes_getD (s : State) (a n j : Nat) (h : j < n) : (s.readBytes a n).getD j 0 = s.readByte (a + j) := by
  simp [State.readBytes, h]

/-- A block store, read back through the block: the stored bytes in their places, every other byte as before. -/
theorem State.storeBytes_readByte (s : State) (bs : List Byte) (hm : Memory.wf s.cfg.font s.work.mem = true)
    (ha : a + bs.length ≤ Config.memSize) :
    (s.storeBytes a bs).readByte b = if a ≤ b ∧ b < a + bs.length then bs.getD (b - a) 0 else s.readByte b :=
  Memory.read_writeBytes hm ha

theorem State.setWork_readByte (s : State) (w : MachineState) (h : w.mem = s.work.mem) :
    (s.setWork w).readByte b = s.readByte b := by
  simp [State.readByte, h]

/-- The reset memory is in canonical form. -/
theorem MachineState.reset_mem_wf : Memory.wf font MachineState.reset.mem = true := rfl

end Sys2Proof.Machine
end

