-- ==== Sys2Proof/Laws/Ops.lean ====
section
/-! SUPPORT. What each shared operation does, said once: registers, stack, skips, draws, the fault path, VF, signals, pixels. -/

namespace Sys2Proof.Machine

/-! ### Registers -/

theorem MachineState.reg_setReg (w : MachineState) (x y : Reg) (b : Byte) :
    (w.setReg x b).reg y = if y = x then b else w.reg y := by
  have hxy : (x.toNat = y.toNat) ↔ (y = x) := by rw [eq_comm, BitVec.toNat_inj]
  simp only [MachineState.reg, MachineState.setReg, Vector.get_eq_getElem, BitVec.val_toFin, Vector.getElem_set, hxy]

@[simp] theorem MachineState.reg_setReg_self (w : MachineState) (x : Reg) (b : Byte) : (w.setReg x b).reg x = b := by
  simp [MachineState.reg_setReg]

theorem MachineState.reg_setReg_of_ne (w : MachineState) {x y : Reg} (b : Byte) (h : y ≠ x) :
    (w.setReg x b).reg y = w.reg y := by
  simp [MachineState.reg_setReg, h]

theorem MachineState.setRegs_reg (w : MachineState) (bs : List Byte) (y : Reg) :
    (w.setRegs bs).reg y = bs.getD y.toNat (w.reg y) := by
  simp [MachineState.reg, MachineState.setRegs, Vector.get_eq_getElem]

@[simp] theorem MachineState.regsUpTo_length (w : MachineState) (x : Reg) : (w.regsUpTo x).length = x.toNat + 1 := by
  have := x.isLt
  simp [MachineState.regsUpTo]
  omega

theorem MachineState.regsUpTo_getD (w : MachineState) (x y : Reg) (h : y.toNat ≤ x.toNat) :
    (w.regsUpTo x).getD y.toNat 0 = w.reg y := by
  have hy : y.toNat < 16 := y.isLt
  simp [MachineState.regsUpTo, MachineState.reg, Vector.get_eq_getElem, Vector.getElem?_eq_getElem hy,
    show y.toNat < x.toNat + 1 by omega]

/-! ### The call stack -/

@[simp] theorem State.top_push (s : State) (a : Word) : (s.push a).top = some a := by simp [State.top]

theorem State.top_eq_none (s : State) : s.top = none ↔ s.work.stack = [] := by simp [State.top]

theorem State.popped_push_stack (s : State) (a : Word) : (s.push a).popped.work.stack = s.work.stack := by simp

theorem State.stackFull_iff (s : State) : s.stackFull = true ↔ s.cfg.stackDepth = some s.work.stack.length := by
  simp [State.stackFull]

/-! ### The pc -/

theorem State.skipIf_eq (s : State) (c : Bool) :
    s.skipIf c = s.jump (if c then s.work.pc + 2 else s.work.pc) := by
  cases c
  · rfl
  · rfl

/-- Undoing the fetch of an instruction gives back the state it was fetched in. -/
theorem State.retreat_advance (s : State) (h : s.fastPhase = .drain) : s.advance.retreat = s := by
  have hpc : s.work.pc + 2 - 2 = s.work.pc := by bv_omega
  cases s
  simp only at h
  subst h
  simp only [State.retreat, State.advance, MachineState.setPc] at hpc ⊢
  rw [hpc]

theorem State.raise_eq (s : State) (c : FaultCode) (n : Word) : s.raise c n = .next (s.retreat.takeFault c n) := rfl

/-! ### Draws -/

theorem nextValue_script {α : Type} (free : Nat → α) (a : α) (l : List α) (n : Nat) : nextValue free ⟨a :: l, n⟩ = a := rfl

theorem nextValue_free {α : Type} (free : Nat → α) (n : Nat) : nextValue free ⟨[], n⟩ = free n := rfl

/-! ### VF -/

theorem State.writeResultAndFlag_of_ne (s : State) {x : Reg} (r : Byte) (f : Bool) (h : x ≠ vf) :
    s.writeResultAndFlag x r f = s.setWork ((s.work.setReg x r).setReg vf (flagByte f)) := if_neg h

theorem State.writeResultAndFlag_vf (s : State) (r : Byte) (f : Bool) :
    s.writeResultAndFlag vf r f = s.afterAlias.setWork (s.work.setReg vf (s.aliasedVf r f)) := if_pos rfl

/-- Under every VF_ALIAS_ORDER the final VF is the flag or the result. -/
theorem State.aliasedVf_cases (s : State) (r : Byte) (f : Bool) : s.aliasedVf r f = flagByte f ∨ s.aliasedVf r f = r := by
  unfold State.aliasedVf
  split
  · exact .inl rfl
  · exact .inr rfl
  · split
    · exact .inl rfl
    · exact .inr rfl

theorem State.afterAlias_eq (s : State) : s.afterAlias = { s with draws := s.afterAlias.draws } := by
  unfold State.afterAlias
  split <;> rfl

theorem State.afterKeySelect_eq (s : State) : s.afterKeySelect = { s with draws := s.afterKeySelect.draws } := by
  unfold State.afterKeySelect
  split <;> rfl

/-- Writing a result and a flag touches the V registers and the draws, nothing else. -/
theorem State.writeResultAndFlag_eq (s : State) (x : Reg) (r : Byte) (f : Bool) :
    s.writeResultAndFlag x r f =
      { s with
        work := { s.work with v := (s.writeResultAndFlag x r f).work.v }
        draws := (s.writeResultAndFlag x r f).draws } := by
  unfold State.writeResultAndFlag
  split
  · rw [State.afterAlias_eq]
    rfl
  · rfl

/-! ### The signal FIFO -/

/-- An enqueue appends the signal, or finds the FIFO full, drops it and sets the sticky bit. -/
theorem State.enqueue_cases (s : State) (g : Signal) :
    (s.fifoFull = false ∧ s.enqueue g = { s with fifo := s.fifo ++ [g] }) ∨
      (s.fifoFull = true ∧ s.enqueue g = { s with fifoOverflow := true }) := by
  unfold State.enqueue
  cases h : s.fifoFull
  · exact .inl ⟨rfl, by simp⟩
  · exact .inr ⟨rfl, by simp⟩

theorem State.fifoFull_iff (s : State) :
    s.fifoFull = true ↔ ∃ d, s.cfg.signalFifoDepth = some d ∧ d ≤ s.fifo.length := by
  simp [State.fifoFull, Option.any_eq_true]

/-- A signal touches `keys`, the timers and the status, nothing else. -/
theorem MachineState.applySignal_eq (w : MachineState) (g : Signal) :
    w.applySignal g =
      { w with
        keys := (w.applySignal g).keys, dt := (w.applySignal g).dt
        st := (w.applySignal g).st, status := (w.applySignal g).status } := by
  cases g <;> rfl

/-- A drain touches `keys`, the timers and the status, nothing else. -/
theorem MachineState.applySignals_eq (w : MachineState) (l : List Signal) :
    w.applySignals l =
      { w with
        keys := (w.applySignals l).keys, dt := (w.applySignals l).dt
        st := (w.applySignals l).st, status := (w.applySignals l).status } := by
  induction l generalizing w with
  | nil => rfl
  | cons g l ih =>
    have h : w.applySignals (g :: l) = (w.applySignal g).applySignals l := rfl
    rw [h, ih (w.applySignal g), MachineState.applySignal_eq w g]

@[simp] theorem MachineState.applySignals_nil (w : MachineState) : w.applySignals [] = w := rfl

@[simp] theorem MachineState.applySignals_cons (w : MachineState) (g : Signal) (l : List Signal) :
    w.applySignals (g :: l) = (w.applySignal g).applySignals l := rfl

theorem MachineState.applySignals_append (w : MachineState) (l l' : List Signal) :
    w.applySignals (l ++ l') = (w.applySignals l).applySignals l' := by
  simp [MachineState.applySignals]

/-- What the slow domain's S1 may change. -/
theorem State.sendKeys_cases (s : State) (m : Word) :
    (m = s.lastKeysSent ∧ s.sendKeys m = s) ∨
      (m ≠ s.lastKeysSent ∧ s.sendKeys m = { s.enqueue (.setKeys m) with lastKeysSent := m }) := by
  unfold State.sendKeys
  split
  · next h => exact .inl ⟨h, rfl⟩
  · next h => exact .inr ⟨h, rfl⟩

/-! ### Pixels -/

theorem Display.pixel_of_outside (d : Display) {col row : Nat} (h : ¬(col < 64 ∧ row < 32)) : d.pixel col row = false := dif_neg h

theorem Display.clear_pixel (col row : Nat) : Display.clear.pixel col row = false := by
  unfold Display.pixel
  split
  · simp [Display.clear]
  · rfl

/-- A toggle inverts its own pixel, if it is inside the grid, and no other. -/
theorem Display.toggle_pixel (d : Display) (c r col row : Nat) :
    (d.toggle c r).pixel col row =
      if col = c ∧ row = r ∧ c < 64 ∧ r < 32 then !d.pixel c r else d.pixel col row := by
  by_cases hin : c < 64 ∧ r < 32
  · by_cases hout : col < 64 ∧ row < 32
    · simp only [Display.toggle, Display.pixel, dif_pos hout, hin, and_true]
      by_cases hc : c = col
      · subst hc
        by_cases hr : r = row
        · subst hr
          simp
        · simp [hr, Ne.symm hr]
      · simp [hc, Ne.symm hc]
    · rw [Display.pixel_of_outside _ hout, Display.pixel_of_outside _ hout, if_neg]
      rintro ⟨rfl, rfl, -⟩
      exact hout hin
  · rw [Display.toggle, dif_neg hin, if_neg]
    rintro ⟨-, -, h⟩
    exact hin h

/-- Two displays with the same pixels are equal. -/
theorem Display.ext_pixel {d e : Display} (h : ∀ col row, d.pixel col row = e.pixel col row) : d = e := by
  ext c hc r hr
  have := h c r
  simpa [Display.pixel, hc, hr] using this

/-- One bit of a sprite: what it does to each pixel and to the collision flag. -/
theorem Canvas.plot_pixel (c : Canvas) (col row : Nat) (bit : Bool) (x y : Nat) :
    (c.plot col row bit).disp.pixel x y =
      if x = col ∧ y = row ∧ bit = true ∧ col < 64 ∧ row < 32 then !c.disp.pixel col row else c.disp.pixel x y := by
  unfold Canvas.plot
  split
  · next h =>
    rw [Display.toggle_pixel]
    have : bit = true ∧ col < 64 ∧ row < 32 := ⟨h.1, by omega, by omega⟩
    simp [this]
  · next h =>
    rw [if_neg]
    rintro ⟨-, -, hb, hc, hr⟩
    exact h ⟨hb, by omega, by omega⟩

theorem Canvas.plot_collision (c : Canvas) (col row : Nat) (bit : Bool) :
    (c.plot col row bit).collision = (c.collision || (bit && c.disp.pixel col row)) := by
  unfold Canvas.plot
  split
  · next h => simp [h.1]
  · next h =>
    cases bit
    · simp
    · rw [Display.pixel_of_outside]
      · simp
      · rintro ⟨hc, hr⟩
        exact h ⟨rfl, by omega, by omega⟩

/-! ### Operands -/

theorem zext16_addr (n : Addr) : zext16 n = BitVec.ofNat 16 n.toNat := by
  unfold zext16
  bv_omega

theorem zext16_byte (b : Byte) : zext16 b = BitVec.ofNat 16 b.toNat := by
  unfold zext16
  bv_omega

theorem blockInRange_iff (a : Word) (n : Nat) : blockInRange a n = true ↔ n = 0 ∨ a.toNat + n ≤ 0x1000 := by
  exact decide_eq_true_iff

theorem firstBeyond_eq (a : Word) : firstBeyond a = BitVec.ofNat 16 (max a.toNat 0x1000) := by
  unfold firstBeyond Config.memSize
  split
  · rw [max_eq_right (by omega)]
    rfl
  · rw [max_eq_left (by omega)]
    simp

/-- The pressed keys are the indices of the set bits of the mask. -/
theorem mem_pressedKeys (keys : Word) (b : Byte) :
    b ∈ pressedKeys keys ↔ ∃ k, k < 16 ∧ keys.getLsbD k = true ∧ b = BitVec.ofNat 8 k := by
  simp only [pressedKeys, List.mem_map, List.mem_filter, List.mem_range]
  constructor
  · rintro ⟨k, ⟨h, hk⟩, rfl⟩
    exact ⟨k, h, hk, rfl⟩
  · rintro ⟨k, h, hk, rfl⟩
    exact ⟨k, ⟨h, hk⟩, rfl⟩

theorem pressedKeys_ne_nil (keys : Word) (h : keys ≠ 0) : pressedKeys keys ≠ [] := by
  refine fun hnil => h (BitVec.eq_of_getLsbD_eq fun k hk => ?_)
  cases hb : keys.getLsbD k
  · simp
  · have := (mem_pressedKeys keys _).2 ⟨k, hk, hb, rfl⟩
    simp [hnil] at this

end Sys2Proof.Machine
end

