-- ==== Sys2Proof/Laws/PerInstr.lean ====
section
/-! SUPPORT. Statements made per instruction. TableRow: the word of an instruction lies in its row of spec/opcode_table.json. -/

namespace Sys2Proof.Laws

/-- The `mask` of the instruction's row in spec/opcode_table.json. -/
def rowMask : Instr → Word
  | .cls => 0xFFFF
  | .ret => 0xFFFF
  | .jp _ => 0xF000
  | .call _ => 0xF000
  | .seImm _ _ => 0xF000
  | .sneImm _ _ => 0xF000
  | .seReg _ _ => 0xF00F
  | .ldImm _ _ => 0xF000
  | .addImm _ _ => 0xF000
  | .ldReg _ _ => 0xF00F
  | .orReg _ _ => 0xF00F
  | .andReg _ _ => 0xF00F
  | .xorReg _ _ => 0xF00F
  | .addReg _ _ => 0xF00F
  | .sub _ _ => 0xF00F
  | .shr _ _ => 0xF00F
  | .subn _ _ => 0xF00F
  | .shl _ _ => 0xF00F
  | .sneReg _ _ => 0xF00F
  | .ldI _ => 0xF000
  | .jpV0 _ => 0xF000
  | .rnd _ _ => 0xF000
  | .drw _ _ _ => 0xF000
  | .skp _ => 0xF0FF
  | .sknp _ => 0xF0FF
  | .ldFromDt _ => 0xF0FF
  | .ldKey _ => 0xF0FF
  | .ldToDt _ => 0xF0FF
  | .ldToSt _ => 0xF0FF
  | .addI _ => 0xF0FF
  | .ldFont _ => 0xF0FF
  | .bcd _ => 0xF0FF
  | .store _ => 0xF0FF
  | .load _ => 0xF0FF

/-- The `match` of the instruction's row in spec/opcode_table.json. -/
def rowMatch : Instr → Word
  | .cls => 0x00E0
  | .ret => 0x00EE
  | .jp _ => 0x1000
  | .call _ => 0x2000
  | .seImm _ _ => 0x3000
  | .sneImm _ _ => 0x4000
  | .seReg _ _ => 0x5000
  | .ldImm _ _ => 0x6000
  | .addImm _ _ => 0x7000
  | .ldReg _ _ => 0x8000
  | .orReg _ _ => 0x8001
  | .andReg _ _ => 0x8002
  | .xorReg _ _ => 0x8003
  | .addReg _ _ => 0x8004
  | .sub _ _ => 0x8005
  | .shr _ _ => 0x8006
  | .subn _ _ => 0x8007
  | .shl _ _ => 0x800E
  | .sneReg _ _ => 0x9000
  | .ldI _ => 0xA000
  | .jpV0 _ => 0xB000
  | .rnd _ _ => 0xC000
  | .drw _ _ _ => 0xD000
  | .skp _ => 0xE09E
  | .sknp _ => 0xE0A1
  | .ldFromDt _ => 0xF007
  | .ldKey _ => 0xF00A
  | .ldToDt _ => 0xF015
  | .ldToSt _ => 0xF018
  | .addI _ => 0xF01E
  | .ldFont _ => 0xF029
  | .bcd _ => 0xF033
  | .store _ => 0xF055
  | .load _ => 0xF065

/-- The word an instruction encodes to, under its row's mask, is its row's match. -/
def TableRow.Statement (i : Instr) : Prop := encode i &&& rowMask i = rowMatch i

/-- From a format's mask lemma and the masked word. -/
theorem row_of_mask {w m v p : Word} (h : w &&& m = v) (hv : v = p) : w &&& m = p := h.trans hv

theorem TableRow.cls : TableRow.Statement .cls := rfl
theorem TableRow.ret : TableRow.Statement .ret := rfl
theorem TableRow.jp (nnn : Addr) : TableRow.Statement (.jp nnn) := row_of_mask (formatA_mask _ _) rfl
theorem TableRow.call (nnn : Addr) : TableRow.Statement (.call nnn) := row_of_mask (formatA_mask _ _) rfl
theorem TableRow.seImm (x : Reg) (nn : Byte) : TableRow.Statement (.seImm x nn) := row_of_mask (formatXNN_mask _ _ _) rfl
theorem TableRow.sneImm (x : Reg) (nn : Byte) : TableRow.Statement (.sneImm x nn) := row_of_mask (formatXNN_mask _ _ _) rfl
theorem TableRow.seReg (x : Reg) (y : Reg) : TableRow.Statement (.seReg x y) := row_of_mask (formatXYN_mask _ _ _ _) rfl
theorem TableRow.ldImm (x : Reg) (nn : Byte) : TableRow.Statement (.ldImm x nn) := row_of_mask (formatXNN_mask _ _ _) rfl
theorem TableRow.addImm (x : Reg) (nn : Byte) : TableRow.Statement (.addImm x nn) := row_of_mask (formatXNN_mask _ _ _) rfl
theorem TableRow.ldReg (x : Reg) (y : Reg) : TableRow.Statement (.ldReg x y) := row_of_mask (formatXYN_mask _ _ _ _) rfl
theorem TableRow.orReg (x : Reg) (y : Reg) : TableRow.Statement (.orReg x y) := row_of_mask (formatXYN_mask _ _ _ _) rfl
theorem TableRow.andReg (x : Reg) (y : Reg) : TableRow.Statement (.andReg x y) := row_of_mask (formatXYN_mask _ _ _ _) rfl
theorem TableRow.xorReg (x : Reg) (y : Reg) : TableRow.Statement (.xorReg x y) := row_of_mask (formatXYN_mask _ _ _ _) rfl
theorem TableRow.addReg (x : Reg) (y : Reg) : TableRow.Statement (.addReg x y) := row_of_mask (formatXYN_mask _ _ _ _) rfl
theorem TableRow.sub (x : Reg) (y : Reg) : TableRow.Statement (.sub x y) := row_of_mask (formatXYN_mask _ _ _ _) rfl
theorem TableRow.shr (x : Reg) (y : Reg) : TableRow.Statement (.shr x y) := row_of_mask (formatXYN_mask _ _ _ _) rfl
theorem TableRow.subn (x : Reg) (y : Reg) : TableRow.Statement (.subn x y) := row_of_mask (formatXYN_mask _ _ _ _) rfl
theorem TableRow.shl (x : Reg) (y : Reg) : TableRow.Statement (.shl x y) := row_of_mask (formatXYN_mask _ _ _ _) rfl
theorem TableRow.sneReg (x : Reg) (y : Reg) : TableRow.Statement (.sneReg x y) := row_of_mask (formatXYN_mask _ _ _ _) rfl
theorem TableRow.ldI (nnn : Addr) : TableRow.Statement (.ldI nnn) := row_of_mask (formatA_mask _ _) rfl
theorem TableRow.jpV0 (nnn : Addr) : TableRow.Statement (.jpV0 nnn) := row_of_mask (formatA_mask _ _) rfl
theorem TableRow.rnd (x : Reg) (nn : Byte) : TableRow.Statement (.rnd x nn) := row_of_mask (formatXNN_mask _ _ _) rfl
theorem TableRow.drw (x : Reg) (y : Reg) (n : Nibble) : TableRow.Statement (.drw x y n) := row_of_mask (formatXYN_opMask _ _ _ _) rfl
theorem TableRow.skp (x : Reg) : TableRow.Statement (.skp x) := row_of_mask (formatXF_mask _ _ _) rfl
theorem TableRow.sknp (x : Reg) : TableRow.Statement (.sknp x) := row_of_mask (formatXF_mask _ _ _) rfl
theorem TableRow.ldFromDt (x : Reg) : TableRow.Statement (.ldFromDt x) := row_of_mask (formatXF_mask _ _ _) rfl
theorem TableRow.ldKey (x : Reg) : TableRow.Statement (.ldKey x) := row_of_mask (formatXF_mask _ _ _) rfl
theorem TableRow.ldToDt (x : Reg) : TableRow.Statement (.ldToDt x) := row_of_mask (formatXF_mask _ _ _) rfl
theorem TableRow.ldToSt (x : Reg) : TableRow.Statement (.ldToSt x) := row_of_mask (formatXF_mask _ _ _) rfl
theorem TableRow.addI (x : Reg) : TableRow.Statement (.addI x) := row_of_mask (formatXF_mask _ _ _) rfl
theorem TableRow.ldFont (x : Reg) : TableRow.Statement (.ldFont x) := row_of_mask (formatXF_mask _ _ _) rfl
theorem TableRow.bcd (x : Reg) : TableRow.Statement (.bcd x) := row_of_mask (formatXF_mask _ _ _) rfl
theorem TableRow.store (x : Reg) : TableRow.Statement (.store x) := row_of_mask (formatXF_mask _ _ _) rfl
theorem TableRow.load (x : Reg) : TableRow.Statement (.load x) := row_of_mask (formatXF_mask _ _ _) rfl

end Sys2Proof.Laws
end

