-- ==== Sys2Proof/Laws/Ports.lean ====
section
/-! SUPPORT. What the output ports show, for every state (60_exceptions.md R148). -/

namespace Sys2Proof.Machine

/-- `frame_strobe` is a function of the slow domain's phase and stop alone. -/
theorem State.frameStrobePort_iff (s : State) :
    s.frameStrobePort = true ↔ s.slowPhase = .s4a ∨ s.slowPhase = .s3 ∧ s.slowStopped = true := decide_eq_true_iff

/-- Whatever leaves the slow domain's phase and stop leaves `frame_strobe`. -/
theorem State.frameStrobePort_congr {s t : State} (hp : t.slowPhase = s.slowPhase) (hs : t.slowStopped = s.slowStopped) :
    t.frameStrobePort = s.frameStrobePort := by
  rw [State.frameStrobePort, State.frameStrobePort, hp, hs]

/-- Without a record `fault_code` is 0. -/
@[simp] theorem State.faultCodePort_of_none {s : State} (h : s.work.fault = none) : s.faultCodePort = 0 := by
  simp [State.faultCodePort, h]

/-- With a record the three fault ports show it. -/
theorem State.faultPorts_of_some {s : State} {r : FaultRecord} (h : s.work.fault = some r) :
    s.faultCodePort = r.code.number ∧ s.faultPcPort = r.pc ∧ s.faultInfoPort = r.info := by
  simp [State.faultCodePort, State.faultPcPort, State.faultInfoPort, h]

/-- No fault has the code of none. -/
theorem FaultCode.number_ne_zero (c : FaultCode) : c.number ≠ 0 := by cases c <;> decide

end Sys2Proof.Machine
end

