-- ==== Sys2Proof/Laws/Screen.lean ====
section
/-! SUPPORT. What drawing a sprite does, said once: pixel by pixel, and to the collision flag. -/

namespace Sys2Proof.Machine

/-- A row inverts exactly the pixels of the grid under its set bits. -/
theorem Canvas.plotRow_pixel (row : Nat) (bits : List Bool) (c : Canvas) (col x y : Nat) (hx : x < 64) (hy : y < 32) :
    (Canvas.plotRow row c col bits).disp.pixel x y =
      (c.disp.pixel x y ^^ decide (y = row ∧ ∃ b, b < bits.length ∧ x = col + b ∧ bits.getD b false = true)) := by
  induction bits generalizing c col with
  | nil => simp [Canvas.plotRow]
  | cons bit bits ih =>
    rw [Canvas.plotRow, ih, Canvas.plot_pixel]
    by_cases hyr : y = row
    · subst hyr
      by_cases hxc : x = col
      · subst hxc
        have h1 : ¬ ∃ b, b < bits.length ∧ x = x + 1 + b ∧ bits.getD b false = true := by rintro ⟨b, _, h, _⟩; omega
        have h2 : (∃ b, b < (bit :: bits).length ∧ x = x + b ∧ (bit :: bits).getD b false = true) ↔ bit = true := by
          constructor
          · rintro ⟨b, _, h, h'⟩; obtain rfl : b = 0 := by omega
            simpa using h'
          · intro h; exact ⟨0, by simp, by simp, by simpa using h⟩
        simp only [true_and, h1, h2, decide_false]
        cases bit <;> simp [hx, hy]
      · have h2 : (∃ b, b < (bit :: bits).length ∧ x = col + b ∧ (bit :: bits).getD b false = true) ↔ (∃ b, b < bits.length ∧ x = col + 1 + b ∧ bits.getD b false = true) := by
          constructor
          · rintro ⟨b, h0, h, h'⟩
            cases b with
            | zero => omega
            | succ b => exact ⟨b, by simpa using h0, by omega, by simpa using h'⟩
          · rintro ⟨b, h0, h, h'⟩; exact ⟨b+1, by simpa using h0, by omega, by simpa using h'⟩
        simp only [true_and, h2, hxc, false_and, if_false]
    · simp [hyr]

/-- A row collides exactly when a pixel under one of its set bits was set. -/
theorem Canvas.plotRow_collision (row : Nat) (bits : List Bool) (c : Canvas) (col : Nat) :
    (Canvas.plotRow row c col bits).collision = true ↔
      c.collision = true ∨ ∃ b, b < bits.length ∧ bits.getD b false = true ∧ c.disp.pixel (col + b) row = true := by
  induction bits generalizing c col with
  | nil => simp [Canvas.plotRow]
  | cons bit bits ih =>
    rw [Canvas.plotRow, ih, Canvas.plot_collision]
    have hp : ∀ b, (c.plot col row bit).disp.pixel (col + 1 + b) row = c.disp.pixel (col + 1 + b) row := by
      intro b; rw [Canvas.plot_pixel, if_neg]; omega
    simp only [hp, Bool.or_eq_true, Bool.and_eq_true]
    constructor
    · rintro ((h | h) | ⟨b, h0, h1, h2⟩)
      · exact .inl h
      · exact .inr ⟨0, by simp, by simpa using h.1, h.2⟩
      · exact .inr ⟨b + 1, by simpa using h0, by simpa using h1, by rwa [show col + (b+1) = col + 1 + b by omega]⟩
    · rintro (h | ⟨b, h0, h1, h2⟩)
      · exact .inl (.inl h)
      · cases b with
        | zero => exact .inl (.inr ⟨by simpa using h1, h2⟩)
        | succ b => exact .inr ⟨b, by simpa using h0, by simpa using h1, by rwa [show col + 1 + b = col + (b+1) by omega]⟩

theorem spriteBits_getD (b : Byte) (k : Nat) (h : k < 8) : (spriteBits b).getD k false = b.getLsbD (7 - k) := by
  simp [spriteBits, h]

@[simp] theorem spriteBits_length (b : Byte) : (spriteBits b).length = 8 := by simp [spriteBits]


/-- A sprite inverts exactly the pixels of the grid it covers. -/
theorem Canvas.plotRows_pixel (bs : List Byte) (c : Canvas) (cx cy x y : Nat) (hx : x < 64) (hy : y < 32) :
    (spriteCovers bs cx cy x y → (Canvas.plotRows cx c cy bs).disp.pixel x y = !c.disp.pixel x y) ∧
    (¬ spriteCovers bs cx cy x y → (Canvas.plotRows cx c cy bs).disp.pixel x y = c.disp.pixel x y) := by
  induction bs generalizing c cy with
  | nil => simp [Canvas.plotRows, spriteCovers]
  | cons b bs ih =>
    rw [Canvas.plotRows]
    have := ih (Canvas.plotRow cy c cx (spriteBits b)) (cy + 1)
    rw [Canvas.plotRow_pixel _ _ _ _ _ _ hx hy] at this
    by_cases hyr : y = cy
    · subst hyr
      have hn : ¬ spriteCovers bs cx (y+1) x y := by rintro ⟨r, b, _, _, _, h, _⟩; omega
      rw [this.2 hn]
      have hc : spriteCovers (b :: bs) cx y x y ↔ ∃ k, k < (spriteBits b).length ∧ x = cx + k ∧ (spriteBits b).getD k false = true := by
        constructor
        · rintro ⟨r, k, h1, h2, h3, h4, h5⟩
          obtain rfl : r = 0 := by omega
          exact ⟨k, by rw [spriteBits_length]; exact h2, h3, by rw [spriteBits_getD _ _ h2]; simpa using h5⟩
        · rintro ⟨k, h2, h3, h5⟩
          rw [spriteBits_length] at h2; rw [spriteBits_getD _ _ h2] at h5
          exact ⟨0, k, by simp, h2, h3, by omega, by simpa using h5⟩
      rw [hc]
      constructor
      · intro h; simp only [h, true_and, decide_true, Bool.xor_true]
      · intro h; simp only [h]; simp
    · have hc : spriteCovers (b :: bs) cx cy x y ↔ spriteCovers bs cx (cy+1) x y := by
        constructor
        · rintro ⟨r, k, h1, h2, h3, h4, h5⟩
          cases r with
          | zero => omega
          | succ r => exact ⟨r, k, by simpa using h1, h2, h3, by omega, by simpa using h5⟩
        · rintro ⟨r, k, h1, h2, h3, h4, h5⟩; exact ⟨r+1, k, by simpa using h1, h2, h3, by omega, by simpa using h5⟩
      rw [hc]
      simpa [hyr] using this

/-- A sprite collides exactly when it covers a pixel of the grid that was set. -/
theorem Canvas.plotRows_collision (bs : List Byte) (c : Canvas) (cx cy : Nat) :
    (Canvas.plotRows cx c cy bs).collision = true ↔ c.collision = true ∨ ∃ col row, col < 64 ∧ row < 32 ∧ c.disp.pixel col row = true ∧ spriteCovers bs cx cy col row := by
  induction bs generalizing c cy with
  | nil => simp [Canvas.plotRows, spriteCovers]
  | cons b bs ih =>
    rw [Canvas.plotRows, ih, Canvas.plotRow_collision]
    have hin : ∀ col row, c.disp.pixel col row = true → col < 64 ∧ row < 32 := by
      intro col row h; by_contra hh; rw [Display.pixel_of_outside _ hh] at h; cases h
    constructor
    · rintro ((h | ⟨k, h1, h2, h3⟩) | ⟨col, row, hc, hr, hp, r, k, h1, h2, h3, h4, h5⟩)
      · exact .inl h
      · rw [spriteBits_length] at h1; rw [spriteBits_getD _ _ h1] at h2
        exact .inr ⟨_, _, (hin _ _ h3).1, (hin _ _ h3).2, h3, 0, k, by simp, h1, rfl, rfl, by simpa using h2⟩
      · rw [Canvas.plotRow_pixel _ _ _ _ _ _ hc hr] at hp
        rw [show decide (row = cy ∧ _) = false by simp; intro h; omega] at hp
        exact .inr ⟨col, row, hc, hr, by simpa using hp, r+1, k, by simpa using h1, h2, h3, by omega, by simpa using h5⟩
    · rintro (h | ⟨col, row, hc, hr, hp, r, k, h1, h2, h3, h4, h5⟩)
      · exact .inl (.inl h)
      · cases r with
        | zero => subst h3 h4; exact .inl (.inr ⟨k, by rw [spriteBits_length]; exact h2, by rw [spriteBits_getD _ _ h2]; simpa using h5, hp⟩)
        | succ r =>
          refine .inr ⟨col, row, hc, hr, ?_, r, k, by simpa using h1, h2, h3, by omega, by simpa using h5⟩
          rw [Canvas.plotRow_pixel _ _ _ _ _ _ hc hr]
          rw [show decide (row = cy ∧ _) = false by simp; intro h; omega]
          simpa using hp

end Sys2Proof.Machine
end

