-- ==== Sys2Proof/Laws/Step.lean ====
section
/-! SUPPORT. What one step can do, said once: execute, a tick, a frame step, the choice of the domain. -/

namespace Sys2Proof.Machine

/-- An executing instruction takes the fault path, or touches nothing but the working state and the draws, and in the working
state neither `keys` nor `status` nor `fault`. -/
theorem exec_cases (i : Instr) (s : State) :
    (∃ c n, exec i s = s.raise c n) ∨
      ∃ t, exec i s = .next t ∧ t = { s with work := t.work, draws := t.draws } ∧
        t.work.keys = s.work.keys ∧ t.work.status = s.work.status ∧ t.work.fault = s.work.fault := by
  have hset : ∀ w : MachineState, w.keys = s.work.keys → w.status = s.work.status → w.fault = s.work.fault →
      ∃ t, Host.Outcome.next (φ := Fault) (ρ := Refusal) (s.setWork w) = .next t ∧
        t = { s with work := t.work, draws := t.draws } ∧
        t.work.keys = s.work.keys ∧ t.work.status = s.work.status ∧ t.work.fault = s.work.fault :=
    fun w h1 h2 h3 => ⟨_, rfl, rfl, h1, h2, h3⟩
  have hskip : ∀ c : Bool, ∃ t, Host.Outcome.next (φ := Fault) (ρ := Refusal) (s.skipIf c) = .next t ∧
        t = { s with work := t.work, draws := t.draws } ∧
        t.work.keys = s.work.keys ∧ t.work.status = s.work.status ∧ t.work.fault = s.work.fault :=
    fun c => ⟨_, rfl, by rw [State.skipIf_eq]; rfl, by rw [State.skipIf_eq]; rfl, by rw [State.skipIf_eq]; rfl,
      by rw [State.skipIf_eq]; rfl⟩
  have hflag : ∀ (x : Reg) (r : Byte) (f : Bool),
      ∃ t, Host.Outcome.next (φ := Fault) (ρ := Refusal) (s.writeResultAndFlag x r f) = .next t ∧
        t = { s with work := t.work, draws := t.draws } ∧
        t.work.keys = s.work.keys ∧ t.work.status = s.work.status ∧ t.work.fault = s.work.fault := by
    intro x r f
    refine ⟨_, rfl, ?_⟩
    rw [State.writeResultAndFlag_eq]
    exact ⟨rfl, rfl, rfl, rfl⟩
  cases i with
  | cls | ldImm | addImm | ldReg | orReg | andReg | xorReg | ldI | ldFromDt | ldToDt | ldToSt => exact .inr (hset _ rfl rfl rfl)
  | jp | jpV0 => exact .inr (hset _ rfl rfl rfl)
  | seImm | sneImm | seReg | sneReg => exact .inr (hskip _)
  | addReg | sub | subn | shr | shl => exact .inr (hflag _ _ _)
  | rnd => exact .inr ⟨_, rfl, rfl, rfl, rfl, rfl⟩
  | ret =>
    show (∃ c n, execRet s = _) ∨ ∃ t, execRet s = _ ∧ _
    unfold execRet
    split
    · exact .inl ⟨_, _, rfl⟩
    · exact .inr ⟨_, rfl, rfl, rfl, rfl, rfl⟩
  | call nnn =>
    show (∃ c n, execCall nnn s = _) ∨ ∃ t, execCall nnn s = _ ∧ _
    unfold execCall
    split
    · exact .inl ⟨_, _, rfl⟩
    · exact .inr ⟨_, rfl, rfl, rfl, rfl, rfl⟩
  | addI x =>
    show (∃ c n, execAddI x s = _) ∨ ∃ t, execAddI x s = _ ∧ _
    unfold execAddI
    split
    · exact .inl ⟨_, _, rfl⟩
    · exact .inr (hset _ rfl rfl rfl)
  | ldFont x =>
    show (∃ c n, execLdFont x s = _) ∨ ∃ t, execLdFont x s = _ ∧ _
    unfold execLdFont
    split
    · exact .inr (hset _ rfl rfl rfl)
    · exact .inl ⟨_, _, rfl⟩
  | store x =>
    show (∃ c n, execStore x s = _) ∨ ∃ t, execStore x s = _ ∧ _
    unfold execStore
    split
    · exact .inr (hset _ rfl rfl rfl)
    · exact .inl ⟨_, _, rfl⟩
  | load x =>
    show (∃ c n, execLoad x s = _) ∨ ∃ t, execLoad x s = _ ∧ _
    unfold execLoad
    split
    · exact .inr (hset _ rfl rfl rfl)
    · exact .inl ⟨_, _, rfl⟩
  | bcd x =>
    show (∃ c n, execBcd x s = _) ∨ ∃ t, execBcd x s = _ ∧ _
    unfold execBcd
    split
    · exact .inr (hset _ rfl rfl rfl)
    · exact .inl ⟨_, _, rfl⟩
  | drw x y n =>
    show (∃ c k, execDrw x y n s = _) ∨ ∃ t, execDrw x y n s = _ ∧ _
    unfold execDrw
    split
    · exact .inr (hset _ rfl rfl rfl)
    · exact .inl ⟨_, _, rfl⟩
  | skp x =>
    show (∃ c n, execSkp x s = _) ∨ ∃ t, execSkp x s = _ ∧ _
    unfold execSkp
    split
    · exact .inr (hskip _)
    · exact .inl ⟨_, _, rfl⟩
  | sknp x =>
    show (∃ c n, execSknp x s = _) ∨ ∃ t, execSknp x s = _ ∧ _
    unfold execSknp
    split
    · exact .inr (hskip _)
    · exact .inl ⟨_, _, rfl⟩
  | ldKey x =>
    show (∃ c n, execLdKey x s = _) ∨ ∃ t, execLdKey x s = _ ∧ _
    unfold execLdKey
    split
    · exact .inr (hset _ rfl rfl rfl)
    · refine .inr ⟨_, rfl, ?_, rfl, rfl, rfl⟩
      rw [State.afterKeySelect_eq]
      rfl

/-- The instruction cycle: a fault of the fetch or of the decoder, or the decoded instruction executed past the fetch. -/
theorem State.instructionCycle_cases (s : State) :
    (∃ c n, s.instructionCycle = .next (s.takeFault c n)) ∨
      ∃ i, blockInRange s.work.pc 2 = true ∧ decode s.fetchWord = .ok i ∧ s.instructionCycle = exec i s.advance := by
  unfold State.instructionCycle
  split
  · next h =>
    split
    · next i hi => exact .inr ⟨i, h, hi, rfl⟩
    · exact .inl ⟨_, _, rfl⟩
  · exact .inl ⟨_, _, rfl⟩

/-- The first half of a tick: the overflow fault, the stop of a terminated block, or the instruction cycle. -/
theorem State.tickDrainExecute_cases (s : State) :
    (s.fifoOverflow = true ∧ s.tickDrainExecute = .next (s.takeFault .signalOverflow 0)) ∨
      (s.fifoOverflow = false ∧ s.drain.work.status = .terminated ∧ s.tickDrainExecute = .next s.drain.stopFast) ∨
      (s.fifoOverflow = false ∧ s.drain.work.status ≠ .terminated ∧ s.tickDrainExecute = s.drain.instructionCycle) := by
  unfold State.tickDrainExecute
  cases ho : s.fifoOverflow
  · by_cases ht : s.drain.work.status = .terminated
    · exact .inr (.inl ⟨rfl, ht, by rw [if_neg (by simp), if_pos ht]⟩)
    · exact .inr (.inr ⟨rfl, ht, by rw [if_neg (by simp), if_neg ht]⟩)
  · exact .inl ⟨rfl, if_pos rfl⟩

/-- The first half of a tick, whatever happens in it, answers a next state. -/
theorem State.tickDrainExecute_next (s : State) : ∃ t, s.tickDrainExecute = .next t := by
  rcases s.tickDrainExecute_cases with ⟨-, h⟩ | ⟨-, -, h⟩ | ⟨-, -, h⟩
  · exact ⟨_, h⟩
  · exact ⟨_, h⟩
  · rcases s.drain.instructionCycle_cases with ⟨c, n, h'⟩ | ⟨i, -, -, h'⟩
    · exact ⟨_, h.trans h'⟩
    · rcases exec_cases i s.drain.advance with ⟨c, n, h''⟩ | ⟨t, h'', -⟩
      · exact ⟨_, (h.trans h').trans h''⟩
      · exact ⟨_, (h.trans h').trans h''⟩

/-- What a fast step can do: publish, or the first half of a tick in one of its four ways. -/
theorem State.fastStep_cases (s : State) :
    (s.fastPhase = .publish ∧ s.fastStep = .next s.tickPublish) ∨
      (s.fastPhase = .drain ∧ s.fifoOverflow = true ∧ s.fastStep = .next (s.takeFault .signalOverflow 0)) ∨
      (s.fastPhase = .drain ∧ s.fifoOverflow = false ∧ s.drain.work.status = .terminated ∧
        s.fastStep = .next s.drain.stopFast) ∨
      (s.fastPhase = .drain ∧ s.fifoOverflow = false ∧ s.drain.work.status ≠ .terminated ∧
        ∃ c n, s.fastStep = .next (s.drain.takeFault c n)) ∨
      (s.fastPhase = .drain ∧ s.fifoOverflow = false ∧ s.drain.work.status ≠ .terminated ∧
        blockInRange s.work.pc 2 = true ∧
        ∃ i t, exec i s.drain.advance = .next t ∧ s.fastStep = .next t ∧
          t = { s.drain.advance with work := t.work, draws := t.draws } ∧
          t.work.keys = s.drain.work.keys ∧ t.work.status = s.drain.work.status ∧ t.work.fault = s.work.fault) := by
  have hpc : s.drain.work.pc = s.work.pc := by
    simp only [State.drain_work]
    rw [MachineState.applySignals_eq]
  have hfault : s.drain.work.fault = s.work.fault := by
    simp only [State.drain_work]
    rw [MachineState.applySignals_eq]
  cases hp : s.fastPhase
  · have hs : s.fastStep = s.tickDrainExecute := by simp [State.fastStep, hp]
    rcases s.tickDrainExecute_cases with ⟨ho, h⟩ | ⟨ho, ht, h⟩ | ⟨ho, ht, h⟩
    · exact .inr (.inl ⟨rfl, ho, hs.trans h⟩)
    · exact .inr (.inr (.inl ⟨rfl, ho, ht, hs.trans h⟩))
    · rcases s.drain.instructionCycle_cases with ⟨c, n, h'⟩ | ⟨i, hb, -, h'⟩
      · exact .inr (.inr (.inr (.inl ⟨rfl, ho, ht, c, n, (hs.trans h).trans h'⟩)))
      · rcases exec_cases i s.drain.advance with ⟨c, n, h''⟩ | ⟨t, h'', hf, hk, hst, hfl⟩
        · refine .inr (.inr (.inr (.inl ⟨rfl, ho, ht, c, n, ?_⟩)))
          rw [hs, h, h', h'', State.raise_eq, State.retreat_advance _ (by simpa using hp)]
        · refine .inr (.inr (.inr (.inr ⟨rfl, ho, ht, hpc ▸ hb, i, t, h'', ?_, hf, hk, hst, ?_⟩)))
          · rw [hs, h, h', h'']
          · rw [hfl]
            exact hfault
  · exact .inl ⟨rfl, by simp [State.fastStep, hp]⟩

/-- The domain that moves is enabled. -/
theorem State.mover_enabled {s : State} {a : Agent} (h : s.mover = some a) : s.enabled a = true := by
  unfold State.mover at h
  split at h
  · next he => simpa [← Option.some.inj h] using he
  · split at h
    · next he => simpa [← Option.some.inj h] using he
    · cases h

theorem State.mover_fast {s : State} (h : s.mover = some .fast) : s.loadError = false ∧ s.fastStopped = false := by
  simpa [State.enabled] using State.mover_enabled h

theorem State.mover_slow {s : State} (h : s.mover = some .slow) : s.loadError = false ∧ s.slowStopped = false := by
  simpa [State.enabled] using State.mover_enabled h

/-- A step that answers a next state is a step of one domain. -/
theorem step_cases {s t : State} (h : step s = .next t) :
    (s.mover = some .fast ∧ s.afterTurn.fastStep = .next t) ∨ (s.mover = some .slow ∧ t = s.afterTurn.slowStep) := by
  unfold step at h
  split at h
  · next hm => exact .inl ⟨hm, h⟩
  · next hm => exact .inr ⟨hm, (Host.Outcome.next.inj h).symm⟩
  · cases h

theorem step_of_fast {s : State} (h : s.mover = some .fast) : step s = s.afterTurn.fastStep := by
  simp [step, h]

theorem step_of_slow {s : State} (h : s.mover = some .slow) : step s = .next s.afterTurn.slowStep := by
  simp [step, h]

/-- Some domain moves exactly while the block has started and not ended. -/
theorem State.exists_mover (s : State) :
    (∃ a, s.mover = some a) ↔ s.loadError = false ∧ ¬(s.fastStopped = true ∧ s.slowStopped = true) := by
  unfold State.mover State.enabled otherAgent
  generalize s.offered = o
  cases o <;> cases s.loadError <;> cases s.fastStopped <;> cases s.slowStopped <;> simp

/-- A frame step leaves the turns. -/
theorem State.slowStep_turns (s : State) : s.slowStep.turns = s.turns := by
  have henq : ∀ g, (s.enqueue g).turns = s.turns := fun g => by
    rcases s.enqueue_cases g with ⟨-, h⟩ | ⟨-, h⟩ <;> rw [h]
  unfold State.slowStep
  split
  · show (s.sendKeys s.sampledKeys).turns = s.turns
    rcases s.sendKeys_cases s.sampledKeys with ⟨-, h⟩ | ⟨-, h⟩ <;> rw [h]
    exact henq _
  · unfold State.slowS2
    split
    · exact henq _
    · rfl
  · unfold State.slowS3
    split <;> rfl
  · exact henq _
  · exact henq _
  · rfl
  · rfl

/-- The first or second half of a tick leaves the turns. -/
theorem State.fastStep_turns {s t : State} (h : s.fastStep = .next t) : t.turns = s.turns := by
  rcases s.fastStep_cases with ⟨-, h'⟩ | ⟨-, -, h'⟩ | ⟨-, -, -, h'⟩ | ⟨-, -, -, c, n, h'⟩ | ⟨-, -, -, -, i, u, -, h', hu, -⟩ <;>
    obtain rfl := Host.Outcome.next.inj (h.symm.trans h')
  · rfl
  · rfl
  · rfl
  · rfl
  · rw [hu]
    rfl

/-- Every step takes one turn, and nothing else about a step touches the turns. -/
theorem step_turns {s t : State} (h : step s = .next t) : t.turns = s.turns.after := by
  rcases step_cases h with ⟨-, h⟩ | ⟨-, rfl⟩
  · exact State.fastStep_turns h
  · exact State.slowStep_turns _

/-- The domain whose turn it is moves, if it has not stopped. -/
theorem State.mover_of_turn {s : State} (h : s.enabled s.turns.agent = true) : s.mover = some s.turns.agent := by
  simp [State.mover, State.offered, h]

end Sys2Proof.Machine
end

