-- ==== Sys2Proof/Tests/Slice0.lean ====
section
/-! SUPPORT. Tests: the refusals of the well-formedness checks, decoding from written-out words, one step per instruction, the two
domains, and for each obligation with hypotheses a state that meets them. Expected values are those of 95_test_vectors.md, whose
ids the comments give; a word is written out from 30_encoding.md R63 and R64. -/

namespace Sys2Proof.Machine.Tests

/-! ### The refusals of WellFormed (00_scope.md R7) -/

theorem test_defaults_wellFormed : Config.defaults.wellFormed = true := by decide
theorem test_zero_rate_refused : Params.wellFormed { Config.defaults with ips := 0 } = false := by decide
theorem test_zero_stack_refused : Params.wellFormed { Config.defaults with stackDepth := some 0 } = false := by decide
theorem test_zero_fifo_refused : Params.wellFormed { Config.defaults with signalFifoDepth := some 0 } = false := by decide
theorem test_short_font_refused : Params.wellFormed { Config.defaults with font := [0xF0] } = false := by decide

/-! ### Decoding, from words written out bit by bit -/

theorem test_decode_cls : decode 0b0000000011100000#16 = .ok .cls := by decide -- DE3
theorem test_decode_ret : decode 0b0000000011101110#16 = .ok .ret := by decide -- DE4
theorem test_decode_jp : decode 0b0001101010111100#16 = .ok (.jp 0xABC) := by decide -- CF1
theorem test_decode_call : decode 0b0010010000000000#16 = .ok (.call 0x400) := by decide -- CF5
theorem test_decode_seImm : decode 0b0011001101000010#16 = .ok (.seImm 3 0x42) := by decide -- CF10
theorem test_decode_sneImm : decode 0b0100001101000010#16 = .ok (.sneImm 3 0x42) := by decide -- CF12
theorem test_decode_seReg : decode 0b0101000100100000#16 = .ok (.seReg 1 2) := by decide -- CF14
theorem test_decode_ldImm : decode 0b0110010110101011#16 = .ok (.ldImm 5 0xAB) := by decide -- AL1
theorem test_decode_addImm : decode 0b0111010100000010#16 = .ok (.addImm 5 0x02) := by decide -- AL2
theorem test_decode_ldReg : decode 0b1000000100100000#16 = .ok (.ldReg 1 2) := by decide -- AL5
theorem test_decode_orReg : decode 0b1000000100100001#16 = .ok (.orReg 1 2) := by decide -- AL6
theorem test_decode_andReg : decode 0b1000000100100010#16 = .ok (.andReg 1 2) := by decide -- AL7
theorem test_decode_xorReg : decode 0b1000000100100011#16 = .ok (.xorReg 1 2) := by decide -- AL8
theorem test_decode_addReg : decode 0b1000000100100100#16 = .ok (.addReg 1 2) := by decide -- AL9
theorem test_decode_sub : decode 0b1000000100100101#16 = .ok (.sub 1 2) := by decide -- AL12
theorem test_decode_shr : decode 0b1000000100100110#16 = .ok (.shr 1 2) := by decide -- DE1
theorem test_decode_subn : decode 0b1000000100100111#16 = .ok (.subn 1 2) := by decide -- AL15
theorem test_decode_shl : decode 0b1000000100101110#16 = .ok (.shl 1 2) := by decide -- AL19
theorem test_decode_sneReg : decode 0b1001000100100000#16 = .ok (.sneReg 1 2) := by decide -- CF16
theorem test_decode_ldI : decode 0b1010000100100011#16 = .ok (.ldI 0x123) := by decide -- MI1
theorem test_decode_jpV0 : decode 0b1011111111111111#16 = .ok (.jpV0 0xFFF) := by decide -- DE16
theorem test_decode_rnd : decode 0b1100010000001111#16 = .ok (.rnd 4 0x0F) := by decide -- TR5
theorem test_decode_drw : decode 0b1101101010110000#16 = .ok (.drw 0xA 0xB 0) := by decide -- DE15
theorem test_decode_skp : decode 0b1110001110011110#16 = .ok (.skp 3) := by decide -- IN1
theorem test_decode_sknp : decode 0b1110001110100001#16 = .ok (.sknp 3) := by decide -- IN3
theorem test_decode_ldFromDt : decode 0b1111010000000111#16 = .ok (.ldFromDt 4) := by decide -- TR1
theorem test_decode_ldKey : decode 0b1111001000001010#16 = .ok (.ldKey 2) := by decide -- IN8
theorem test_decode_ldToDt : decode 0b1111010000010101#16 = .ok (.ldToDt 4) := by decide -- TR2
theorem test_decode_ldToSt : decode 0b1111010000011000#16 = .ok (.ldToSt 4) := by decide -- TR4
theorem test_decode_addI : decode 0b1111001100011110#16 = .ok (.addI 3) := by decide -- MI2
theorem test_decode_ldFont : decode 0b1111001100101001#16 = .ok (.ldFont 3) := by decide -- MI5
theorem test_decode_bcd : decode 0b1111000100110011#16 = .ok (.bcd 1) := by decide -- DE2
theorem test_decode_store : decode 0b1111001101010101#16 = .ok (.store 3) := by decide -- MI9
theorem test_decode_load : decode 0b1111001101100101#16 = .ok (.load 3) := by decide -- MI10

/-- DE5 to DE14: words outside the catalog. -/
theorem test_decode_unknown :
    ([0x00E1, 0x0123, 0x0000, 0x5121, 0x9121, 0x8128, 0x800F, 0xE000, 0xF000, 0xF0FF] : List Word).all
      (fun w => decide (decode w = .error .unknownOpcode)) = true := by decide

theorem test_decode_stream : decodeBytes [0x81, 0x26, 0xF1] = .ok (.shr 1 2, [0xF1]) := by decide
theorem test_decode_truncated : decodeBytes [0x81] = .error .truncated := by decide
theorem test_decodeTableWord : decodeTableWord 16 0xDAB5 = some (.drw 0xA 0xB 5) := by decide

/-! ### Helpers -/

/-- The outcome is a next state with the property `p`. -/
def nextIs (o : Host.Outcome State Fault Refusal) (p : State → Bool) : Bool :=
  match o with
  | .next t => p t
  | _ => false

theorem exists_of_nextIs {o : Host.Outcome State Fault Refusal} {p : State → Bool} (h : nextIs o p = true) :
    ∃ t, o = .next t ∧ p t = true := by
  cases o with
  | next t => exact ⟨t, rfl, h⟩
  | fault r => cases h
  | refused r => cases h

/-- The reset state about to execute the instruction at 0x200, with its working state changed by `f`. -/
def poised (f : MachineState → MachineState) : State :=
  { State.reset with work := f { MachineState.reset with pc := 0x202 }, fastPhase := .publish }

/-- `s` with the bytes `bs` at `a`. -/
def mem (a : Nat) (bs : List Byte) (s : State) : State := s.storeBytes a bs

/-- `s` with the pixel (col, row) on. -/
def lit (col row : Nat) (s : State) : State := s.setWork (s.work.setDisp (s.work.disp.toggle col row))

/-- The fault path was taken with this record, the pc back at the instruction. -/
def faultIs (c : FaultCode) (pc info : Word) (t : State) : Bool :=
  decide (t.work.fault = some ⟨c, pc, info⟩ ∧ t.work.pc = pc ∧ t.work.status = .terminated ∧ t.fastStopped = true ∧
    t.snap.fault = t.work.fault)

/-- The block after a load of `image`, with the fast domain next. -/
def booted (image : List Byte) : State := { State.boot Config.defaults image with turns := ⟨.fast, 0, ⟨[0], 0⟩⟩ }

/-- The reset state with the slow domain next, in phase `p`. -/
def slowAt (p : SlowPhase) : State := { State.reset with turns := ⟨.slow, 0, ⟨[0], 0⟩⟩, slowPhase := p }

/-! ### Instructions -/

theorem test_cls : nextIs (exec .cls (lit 63 31 (poised id))) (fun t => !t.work.disp.pixel 63 31) = true := by decide -- DS1
theorem test_ret : nextIs (exec .ret (poised fun w => w.setStack [0x202]))
    (fun t => t.work.pc == 0x202 && t.work.stack == []) = true := by decide -- CF6
theorem test_ret_empty : nextIs (exec .ret (poised id)) (faultIs .stackUnderflow 0x200 0) = true := by decide -- CF7
theorem test_jp : nextIs (exec (.jp 0xABC) (poised id)) (fun t => t.work.pc == 0xABC) = true := by decide -- CF1
theorem test_jpV0 : nextIs (exec (.jpV0 0xFFF) (poised fun w => w.setReg 0 0xFF)) (fun t => t.work.pc == 0x10FE) = true := by
  decide -- CF4
theorem test_call : nextIs (exec (.call 0x400) (poised id))
    (fun t => t.work.pc == 0x400 && t.work.stack == [0x202]) = true := by decide -- CF5
theorem test_call_full :
    nextIs (exec (.call 0x500)
      { poised fun w => w.setStack [0x202, 0x302] with cfg := { Config.defaults with stackDepth := some 2 } })
      (faultIs .stackOverflow 0x200 2) = true := by decide -- CF8
theorem test_seImm : nextIs (exec (.seImm 3 0x42) (poised fun w => w.setReg 3 0x42)) (fun t => t.work.pc == 0x204) = true := by
  decide -- CF10
theorem test_seImm_not : nextIs (exec (.seImm 3 0x42) (poised fun w => w.setReg 3 0x41)) (fun t => t.work.pc == 0x202) = true := by
  decide -- CF11
theorem test_sneImm : nextIs (exec (.sneImm 3 0x42) (poised fun w => w.setReg 3 0x41)) (fun t => t.work.pc == 0x204) = true := by
  decide -- CF12
theorem test_sneImm_not : nextIs (exec (.sneImm 3 0x42) (poised fun w => w.setReg 3 0x42)) (fun t => t.work.pc == 0x202) = true := by
  decide -- CF13
theorem test_seReg : nextIs (exec (.seReg 1 2) (poised fun w => (w.setReg 1 7).setReg 2 7)) (fun t => t.work.pc == 0x204) = true := by
  decide -- CF14
theorem test_seReg_not : nextIs (exec (.seReg 1 2) (poised fun w => (w.setReg 1 7).setReg 2 8))
    (fun t => t.work.pc == 0x202) = true := by decide -- CF15
theorem test_sneReg : nextIs (exec (.sneReg 1 2) (poised fun w => (w.setReg 1 7).setReg 2 8)) (fun t => t.work.pc == 0x204) = true := by
  decide -- CF16
theorem test_sneReg_not : nextIs (exec (.sneReg 1 2) (poised fun w => (w.setReg 1 7).setReg 2 7))
    (fun t => t.work.pc == 0x202) = true := by decide -- CF17

/-- V1, V2 and VF of a state whose V1, V2 start at `a`, `b` and whose VF starts at 0x77. -/
def alu (i : Instr) (a b r f : Byte) (quirk : Bool := true) : Bool :=
  nextIs (exec i
      { poised fun w => ((w.setReg 1 a).setReg 2 b).setReg vf 0x77 with
        cfg := { Config.defaults with shiftQuirk := quirk } })
    fun t => t.work.reg 1 == r && t.work.reg 2 == b && t.work.reg vf == f && t.work.pc == 0x202

theorem test_ldImm : alu (.ldImm 1 0xAB) 0 0 0xAB 0x77 = true := by decide -- AL1
theorem test_addImm_wraps : alu (.addImm 1 0x02) 0xFF 0 0x01 0x77 = true := by decide -- AL2
theorem test_ldReg : alu (.ldReg 1 2) 0 0x5A 0x5A 0x77 = true := by decide -- AL5
theorem test_orReg : alu (.orReg 1 2) 0xF0 0x0F 0xFF 0x77 = true := by decide -- AL6
theorem test_andReg : alu (.andReg 1 2) 0xF0 0x3C 0x30 0x77 = true := by decide -- AL7
theorem test_xorReg : alu (.xorReg 1 2) 0xF0 0x3C 0xCC 0x77 = true := by decide -- AL8
theorem test_addReg_carry : alu (.addReg 1 2) 0xFF 0x01 0x00 0x01 = true := by decide -- AL9
theorem test_sub_borrow : alu (.sub 1 2) 0x03 0x05 0xFE 0x00 = true := by decide -- AL13
theorem test_sub_equal : alu (.sub 1 2) 0x05 0x05 0x00 0x01 = true := by decide -- AL14
theorem test_subn_borrow : alu (.subn 1 2) 0x05 0x03 0xFE 0x00 = true := by decide -- AL15
theorem test_subn : alu (.subn 1 2) 0x03 0x05 0x02 0x01 = true := by decide -- AL16
theorem test_shr_quirk : alu (.shr 1 2) 0x04 0x05 0x02 0x01 = true := by decide -- AL17
theorem test_shr_no_quirk : alu (.shr 1 2) 0x04 0x05 0x02 0x00 false = true := by decide -- AL18
theorem test_shl_quirk : alu (.shl 1 2) 0x01 0x81 0x02 0x01 = true := by decide -- AL19
theorem test_shl_no_quirk : alu (.shl 1 2) 0x01 0x81 0x02 0x00 false = true := by decide -- AL20

/-- AL23, AL24 and AL25: the result and the flag both bound for VF. -/
theorem test_addReg_into_vf :
    nextIs (exec (.addReg 0xF 1)
        { poised fun w => (w.setReg 1 1).setReg vf 0xFF with cfg := { Config.defaults with vfAliasOrder := .flagLast } })
      (fun t => t.work.reg vf == 1) &&
    nextIs (exec (.addReg 0xF 1)
        { poised fun w => (w.setReg 1 1).setReg vf 0xFF with cfg := { Config.defaults with vfAliasOrder := .resultLast } })
      (fun t => t.work.reg vf == 0) &&
    nextIs (exec (.addReg 0xF 1) { poised fun w => (w.setReg 1 1).setReg vf 0xFF with draws := ⟨[0], 0⟩ })
      (fun t => t.work.reg vf == 0) &&
    nextIs (exec (.addReg 0xF 1) { poised fun w => (w.setReg 1 1).setReg vf 0xFF with draws := ⟨[1], 0⟩ })
      (fun t => t.work.reg vf == 1) = true := by decide

theorem test_ldI : nextIs (exec (.ldI 0x123) (poised id)) (fun t => t.work.i == 0x123) = true := by decide -- MI1
theorem test_addI : nextIs (exec (.addI 3) (poised fun w => (w.setI 0xFFF0).setReg 3 0x0F)) (fun t => t.work.i == 0xFFFF) = true := by
  decide -- MI3
theorem test_addI_overflow : nextIs (exec (.addI 3) (poised fun w => (w.setI 0xFFFF).setReg 3 0x01))
    (faultIs .indexOverflow 0x200 0xFFFF) = true := by decide -- MI4
theorem test_ldFont : nextIs (exec (.ldFont 3) (poised fun w => w.setReg 3 0x0F)) (fun t => t.work.i == 0x04B) = true := by
  decide -- MI7
theorem test_ldFont_range : nextIs (exec (.ldFont 3) (poised fun w => w.setReg 3 0x10))
    (faultIs .fontDigitOutOfRange 0x200 0x10) = true := by decide -- MI8
theorem test_store : nextIs (exec (.store 2) (poised fun w => (((w.setI 0xFFD).setReg 0 1).setReg 1 2).setReg 2 3))
    (fun t => t.readBytes 0xFFC 4 == [0, 1, 2, 3] && t.work.i == 0xFFD) = true := by decide -- MI14
theorem test_store_beyond : nextIs (exec (.store 2) (poised fun w => (((w.setI 0xFFE).setReg 0 1).setReg 1 2).setReg 2 3))
    (fun t => faultIs .memoryOutOfRange 0x200 0x1000 t && t.work.mem == []) = true := by decide -- MI13
theorem test_load : nextIs (exec (.load 3) (mem 0x300 [0xA, 0xB, 0xC, 0xD] (poised fun w => (w.setI 0x300).setReg 4 0x77)))
    (fun t => t.work.regsUpTo 4 == [0xA, 0xB, 0xC, 0xD, 0x77] && t.work.i == 0x300) = true := by decide -- MI10
theorem test_load_beyond : nextIs (exec (.load 0) (poised fun w => w.setI 0x1000))
    (faultIs .memoryOutOfRange 0x200 0x1000) = true := by decide -- MI15
theorem test_bcd : nextIs (exec (.bcd 1) (poised fun w => (w.setI 0x300).setReg 1 0x9D))
    (fun t => t.readBytes 0x300 3 == [1, 5, 7] && t.work.i == 0x300) = true := by decide -- MI16
theorem test_bcd_beyond : nextIs (exec (.bcd 1) (poised fun w => (w.setI 0xFFE).setReg 1 1))
    (faultIs .memoryOutOfRange 0x200 0x1000) = true := by decide -- MI20
theorem test_drw_collision : nextIs (exec (.drw 0 1 1) (lit 1 0 (mem 0x300 [0xC0] (poised fun w => w.setI 0x300))))
    (fun t => t.work.disp.pixel 0 0 && !t.work.disp.pixel 1 0 && t.work.reg vf == 1) = true := by decide -- DS4
theorem test_drw_clips : nextIs (exec (.drw 0 1 2) (mem 0x300 [0x80, 0x80] (poised fun w => (w.setI 0x300).setReg 1 31)))
    (fun t => t.work.disp.pixel 0 31 && !t.work.disp.pixel 0 0 && t.work.reg vf == 0) = true := by decide -- DS7
theorem test_skp : nextIs (exec (.skp 3) (poised fun w => (w.setReg 3 0xF).setKeys 0x8000)) (fun t => t.work.pc == 0x204) = true := by
  decide -- IN5
theorem test_skp_range : nextIs (exec (.skp 3) (poised fun w => w.setReg 3 0x10))
    (faultIs .keyIndexOutOfRange 0x200 0x10) = true := by decide -- IN6
theorem test_sknp : nextIs (exec (.sknp 3) (poised fun w => w.setReg 3 4)) (fun t => t.work.pc == 0x204) = true := by decide -- IN3
theorem test_sknp_not : nextIs (exec (.sknp 3) (poised fun w => (w.setReg 3 4).setKeys 0x0010)) (fun t => t.work.pc == 0x202) = true := by
  decide -- IN4
theorem test_ldKey_spins : nextIs (exec (.ldKey 2) (poised id)) (fun t => t.work.pc == 0x200 && t.work.reg 2 == 0) = true := by
  decide -- IN8, at 0x200
theorem test_ldKey_any :
    nextIs (exec (.ldKey 2) { poised fun w => w.setKeys 0x8001 with draws := ⟨[0], 0⟩ }) (fun t => t.work.reg 2 == 0) &&
    nextIs (exec (.ldKey 2) { poised fun w => w.setKeys 0x8001 with draws := ⟨[1], 0⟩ }) (fun t => t.work.reg 2 == 0xF) = true := by
  decide -- IN11
theorem test_ldFromDt : nextIs (exec (.ldFromDt 4) (poised fun w => w.setDt 0x3C)) (fun t => t.work.reg 4 == 0x3C) = true := by
  decide -- TR1
theorem test_ldToDt : nextIs (exec (.ldToDt 4) (poised fun w => w.setReg 4 0x3C)) (fun t => t.work.dt == 0x3C) = true := by
  decide -- TR2
theorem test_ldToSt : nextIs (exec (.ldToSt 4) (poised fun w => w.setReg 4 2)) (fun t => t.work.st == 2) = true := by
  decide -- TR4
theorem test_rnd : nextIs (exec (.rnd 4 0x0F) { poised id with draws := ⟨[0xA7], 0⟩ }) (fun t => t.work.reg 4 == 0x07) = true := by
  decide -- TR5

/-! ### Ticks, frames, reset and load -/

/-- RS5: the first tick jumps to 0x234. -/
theorem test_first_tick : nextIs (step (booted [0x12, 0x34])) (fun t => t.work.pc == 0x234 && t.fastPhase == .publish) = true := by
  decide

/-- RS4: with an empty image the first tick faults on the word 0. -/
theorem test_first_tick_empty : nextIs (step (booted [])) (faultIs .unknownOpcode 0x200 0) = true := by decide

/-- RS3: 3585 bytes are too many. -/
theorem test_load_too_large : (State.boot Config.defaults (List.replicate 3585 1)).work.fault = some ⟨.loadTooLarge, 0x200, 0x0E01⟩ := by
  rw [State.boot, State.load, if_neg (by rw [imageFits, List.length_replicate]; decide), List.length_replicate]
  decide

/-- CF21: a fetch at 0xFFF. -/
theorem test_fetch_beyond :
    nextIs (step { booted [] with work := { MachineState.reset with pc := 0xFFF } })
      (faultIs .memoryOutOfRange 0xFFF 0x1000) = true := by decide

/-- CF22: a fetch at an odd address, high byte first. -/
theorem test_fetch_odd :
    nextIs (step (mem 0x201 [0x12, 0x01] { booted [] with work := { MachineState.reset with pc := 0x201 } }))
      (fun t => t.work.pc == 0x201) = true := by decide

/-- SG1: a drain. -/
theorem test_drain :
    (State.drain { poised fun w => w.setDt 5 with
        fifo := [.setKeys 0x0010, .decrementDelayTimer, .decrementSoundTimer] }).work =
      (poised fun w => (w.setDt 4).setKeys 0x0010).work := by decide

/-- SG3: a Terminate, and what is drained with it; nothing is published. -/
theorem test_drain_terminate :
    nextIs (step { booted [0x12, 0x34] with fifo := [.terminate, .setKeys 1] })
      (fun t => t.work.status == .terminated && t.work.keys == 1 && t.work.pc == 0x200 && t.fastStopped &&
        t.snap.status == .active) = true := by decide

/-- SG11: a full FIFO drops the signal, -/
theorem test_overflow_drops :
    nextIs (step
        { slowAt .s1 with
          cfg := { Config.defaults with signalFifoDepth := some 2 }
          fifo := [.decrementDelayTimer, .decrementSoundTimer], keysIn := ⟨[1], 0⟩ })
      (fun t => t.fifoOverflow && t.fifo == [.decrementDelayTimer, .decrementSoundTimer]) = true := by decide

/-- and the next drain faults with no signal applied. -/
theorem test_overflow_faults :
    nextIs (step { booted [0x12, 0x34] with fifo := [.setKeys 1], fifoOverflow := true })
      (fun t => faultIs .signalOverflow 0x200 0 t && t.work.keys == 0) = true := by decide

/-- SG4 and SG5: S1. -/
theorem test_s1 :
    nextIs (step { slowAt .s1 with keysIn := ⟨[0], 0⟩ }) (fun t => t.fifo == [] && t.slowPhase == .s2) &&
    nextIs (step { slowAt .s1 with keysIn := ⟨[3], 0⟩ }) (fun t => t.fifo == [.setKeys 3] && t.lastKeysSent == 3) = true := by decide

/-- SG6: a quit at S2. -/
theorem test_s2_quit :
    nextIs (step { slowAt .s2 with quitIn := ⟨[true], 0⟩ }) (fun t => t.fifo == [.terminate] && t.slowStopped) = true := by decide

/-- SG7: between the two steps of a tick S3 reads the snapshot of the tick before. -/
theorem test_s3_reads_snapshot :
    nextIs (step { slowAt .s3 with work := MachineState.reset.setPc 0x234, fastPhase := .publish })
      (fun t => t.frameSnap.pc == 0x200 && t.slowPhase == .s4a) = true := by decide

/-- SG8 and SG9: the tone. -/
theorem test_s5 :
    nextIs (step { slowAt .s5 with frameSnap := MachineState.reset.setSt 2 }) (fun t => t.toneOnPort) &&
    nextIs (step { slowAt .s5 with sounding := true }) (fun t => !t.toneOnPort) = true := by decide

/-- SG12: a fault of a tick is published, -/
theorem test_fault_published :
    nextIs (step (booted [0x00, 0xEE])) (fun t => faultIs .stackUnderflow 0x200 0 t && t.faultCodePort == 2) = true := by decide

/-- and an S3 that reads a Terminated snapshot stops the slow domain. -/
theorem test_s3_stops :
    nextIs (step { slowAt .s3 with snap := MachineState.reset.terminate }) (fun t => t.slowStopped) = true := by decide

/-- R148: `frame_strobe` is low before S3, high after it, whether S3 goes on or stops, and low after S4a. -/
theorem test_frame_strobe :
    (!(slowAt .s3).frameStrobePort && nextIs (step (slowAt .s3)) (fun t => t.frameStrobePort)) &&
    nextIs (step { slowAt .s3 with snap := MachineState.reset.terminate }) (fun t => t.frameStrobePort) &&
    nextIs (step (slowAt .s4a)) (fun t => !t.frameStrobePort) = true := by decide

/-- R112, R148: the fault ports after a word that decodes to nothing. -/
theorem test_fault_ports :
    nextIs (step (booted [0x50, 0x01]))
      (fun t => t.faultCodePort == 1 && t.faultPcPort == 0x200 && t.faultInfoPort == 0x5001) = true := by decide

/-- R150: a step inside a burst keeps the turn, and the last step of a burst passes it, for a burst of the next length. -/
theorem test_turns :
    nextIs (step { slowAt .s6 with turns := ⟨.slow, 1, ⟨[2], 0⟩⟩ }) (fun t => t.turns == ⟨.slow, 0, ⟨[2], 0⟩⟩) &&
    nextIs (step { slowAt .s6 with turns := ⟨.slow, 0, ⟨[2], 0⟩⟩ }) (fun t => t.turns == ⟨.fast, 2, ⟨[], 1⟩⟩) = true := by decide

/-- R150, R132: the turn of a domain that has stopped is taken by the other. -/
theorem test_turn_of_stopped : State.mover { slowAt .s1 with slowStopped := true } = some .fast := by decide

/-- The word the host places is the one the very next step runs. -/
theorem test_withFetchWord : nextIs (step (State.reset.withFetchWord 16 0x65AB)) (fun t => t.work.reg 5 == 0xAB) = true := by decide

/-- 93_implementation_defined.md section 3: glyph F at 5·F in the reset memory. -/
theorem test_font_glyph : State.reset.readBytes 0x04B 5 = [0xF0, 0x80, 0xF0, 0x80, 0x80] := by decide

/-! ### Witnesses: for each obligation with hypotheses, a state and operands that meet them, clause by clause at the boundaries -/

/-- Some next state follows. -/
def answers (o : Host.Outcome State Fault Refusal) : Bool := nextIs o fun _ => true

theorem witness_EncodeInvertsDecode : decode 0x8126#16 = .ok (.shr 1 2) := by decide

theorem witness_UnknownWordsAreTheListedOnes : decode 0x0000#16 = .error .unknownOpcode := by decide

/-- The fast domain about to fetch the last word of memory. -/
def lastWord : State := mem 0xFFE [0x12, 0x00] { booted [] with work := MachineState.reset.setPc 0xFFE }

theorem witness_StepRunsDecodedInstruction :
    lastWord.mover = some .fast ∧ lastWord.fastPhase = .drain ∧ lastWord.fifoOverflow = false ∧
      lastWord.drained.work.status = .active ∧ lastWord.work.pc.toNat ≤ 0xFFE ∧
      decode (wordOfBytes (lastWord.readByte lastWord.work.pc.toNat) (lastWord.readByte (lastWord.work.pc.toNat + 1))) =
        .ok (.jp 0x200) := by decide

theorem witness_TickFaultsInOrder_overflow :
    State.mover { booted [] with fifoOverflow := true } = some .fast ∧ (booted []).fastPhase = .drain := by decide

theorem witness_TickFaultsInOrder_terminated :
    State.mover { booted [] with fifo := [.terminate] } = some .fast ∧
      (State.drained { booted [] with fifo := [.terminate] }).work.status = .terminated := by decide

theorem witness_TickFaultsInOrder_fetch :
    State.mover { booted [] with work := MachineState.reset.setPc 0xFFF } = some .fast ∧
      (State.drained { booted [] with work := MachineState.reset.setPc 0xFFF }).work.status = .active ∧
      0xFFE < (MachineState.reset.setPc 0xFFF).pc.toNat := by decide

theorem witness_TickFaultsInOrder_decode :
    (booted []).mover = some .fast ∧ (booted []).drained.work.status = .active ∧ (booted []).fifoOverflow = false ∧
      decode (wordOfBytes ((booted []).readByte 0x200) ((booted []).readByte 0x201)) = .error .unknownOpcode := by decide

theorem witness_FaultPathKeepsTheDrainedState :
    (booted [0x00, 0xEE]).work.fault = none ∧ (booted [0x00, 0xEE]).fifoOverflow = false ∧
      ∃ t, step (booted [0x00, 0xEE]) = .next t ∧ (t.work.fault != none) = true :=
  ⟨by decide, by decide, exists_of_nextIs (by decide)⟩

theorem witness_FaultPathKeepsTheDrainedState_overflow :
    ∃ t, step { booted [] with fifoOverflow := true } = .next t ∧ (t.work.fault != none) = true := exists_of_nextIs (by decide)

theorem witness_PublishCopiesWorkingState :
    State.mover { booted [] with fastPhase := .publish } = some .fast := by decide

theorem witness_DrainAppliesEverySignal :
    ([.setKeys 1, .setKeys 2, .terminate] : List Signal) = [.setKeys 1] ++ .setKeys 2 :: [.terminate] ∧
      (∀ m, .setKeys m ∉ ([.terminate] : List Signal)) := ⟨rfl, by simp⟩

theorem witness_EnqueueAppendsOrOverflows :
    State.reset.cfg.signalFifoDepth = none ∧
      (∀ d, ({ Config.defaults with signalFifoDepth := some 2 } : Params).signalFifoDepth = some d →
        ([.terminate] : List Signal).length < d ∧ d ≤ ([.terminate, .terminate] : List Signal).length) :=
  ⟨rfl, fun d h => by obtain rfl := Option.some.inj h; decide⟩

/-- The slow domain next, in phase `p`, with a FIFO of depth 1 that is full. -/
def fullAt (p : SlowPhase) : State :=
  { slowAt p with cfg := { Config.defaults with signalFifoDepth := some 1 }, fifo := [.terminate] }

theorem witness_slow_phases :
    (∀ p, (slowAt p).mover = some .slow ∧ (slowAt p).fifoFull = false) ∧
      (∀ p, (fullAt p).mover = some .slow ∧ (fullAt p).fifoFull = true) := by
  constructor <;> intro p <;> cases p <;> decide

theorem witness_FrameSamplesKeys :
    State.sampledKeys { slowAt .s1 with keysIn := ⟨[0], 0⟩ } = (slowAt .s1).lastKeysSent ∧
      State.sampledKeys { slowAt .s1 with keysIn := ⟨[3], 0⟩ } ≠ (slowAt .s1).lastKeysSent ∧
      State.sampledKeys { fullAt .s1 with keysIn := ⟨[3], 0⟩ } ≠ (fullAt .s1).lastKeysSent := by decide

theorem witness_FrameSendsTerminateOnQuit :
    State.sampledQuit { slowAt .s2 with quitIn := ⟨[false], 0⟩ } = false ∧
      State.sampledQuit { slowAt .s2 with quitIn := ⟨[true], 0⟩ } = true ∧
      State.sampledQuit { fullAt .s2 with quitIn := ⟨[true], 0⟩ } = true := by decide

theorem witness_FrameReadsTheSnapshot :
    (slowAt .s3).snap.status = .active ∧
      (State.snap { slowAt .s3 with snap := MachineState.reset.terminate }).status = .terminated := by decide

/-- The block after its run. -/
def finished : State := { booted [] with fastStopped := true, slowStopped := true }

theorem witness_StepsUntilTheRunEnds :
    (State.loadError { State.reset with loadError := true } = true) ∧ (finished.loadError = false ∧ finished.ended) ∧
      answers (step (booted [])) = true :=
  ⟨rfl, ⟨rfl, rfl, rfl⟩, by decide⟩

theorem witness_AnyEnabledDomainMayStep : ∀ a, State.reset.enabled a = true := by
  intro a
  cases a <;> decide

theorem witness_SlowStepLeavesWorkingState : (slowAt .s4a).mover = some .slow ∧ answers (step (slowAt .s4a)) = true := by decide

theorem witness_FastStepLeavesSlowState :
    (booted [0x12, 0x34]).mover = some .fast ∧ answers (step (booted [0x12, 0x34])) = true := by decide

/-- A fault has ended the fast domain and is published; the slow domain is in phase S4a, the furthest from the next S3. -/
def faultedAt : State :=
  { slowAt .s4a with
    work := (MachineState.reset.record ⟨.unknownOpcode, 0x200, 0⟩).terminate
    snap := (MachineState.reset.record ⟨.unknownOpcode, 0x200, 0⟩).terminate
    fastStopped := true }

theorem faultedAt_lifeInv : faultedAt.lifeInv where
  terminatedStops := fun _ => .inl rfl
  faultTerminates := fun _ => rfl
  faultPublished := fun _ _ => rfl
  snapFresh := fun _ h => nomatch h
  terminateSent := fun h => nomatch h
  quitStops := fun _ h => nomatch h
  snapTerminated := fun _ => ⟨rfl, fun h => nomatch h⟩

theorem witness_TerminationIsOneWay :
    faultedAt.lifeInv ∧ faultedAt.work.status = .terminated ∧ faultedAt.fastStopped = true ∧
      faultedAt.work.fault = some ⟨.unknownOpcode, 0x200, 0⟩ ∧ answers (step faultedAt) = true ∧
      answers (step { booted [0x12, 0x34] with slowStopped := true }) = true :=
  ⟨faultedAt_lifeInv, by decide⟩

theorem witness_InstructionsRaiseOnlyTheirFault :
    (∃ t, exec .ret (poised id) = .next t ∧ (t.work.fault != (poised id).work.fault) = true) ∧
      ∃ t, step (booted [0x00, 0xEE]) = .next t ∧ (t.work.fault == some ⟨.stackUnderflow, 0x200, 0⟩) = true :=
  ⟨exists_of_nextIs (by decide), exists_of_nextIs (by decide)⟩

theorem witness_EachStateHasItsOwnWriters :
    answers (exec (.jp 0x234) (poised id)) = true ∧ storesMemory (.jp 0x234) = false ∧
      writesI (.jp 0x234) = false ∧ usesStack (.jp 0x234) = false ∧ writesDisplay (.jp 0x234) = false := by decide

theorem witness_RegistersHaveTheirOwnWriters :
    answers (exec (.ldImm 1 0xAB) (poised id)) = true ∧ isDestination (.ldImm 1 0xAB) 0xF = false ∧
      writesFlag (.ldImm 1 0xAB) = false := by decide

theorem witness_PcAfterEachInstruction :
    (poised id).work.pc = 0x200 + 2 ∧ ∃ t, exec (.jp 0x234) (poised id) = .next t ∧ (t.work.fault == none) = true :=
  ⟨by decide, exists_of_nextIs (by decide)⟩

theorem witness_FlagOperations :
    (∀ o, ({ poised id with cfg := { Config.defaults with vfAliasOrder := o } } : State).cfg.vfAliasOrder = o) ∧
      (1 : Reg) ≠ 0xF#4 ∧ ({ poised id with cfg := { Config.defaults with shiftQuirk := false } } : State).cfg.shiftQuirk = false := by
  refine ⟨fun o => rfl, by decide⟩

/-- A bounded stack of depth 2 that holds `l`. -/
def stackOf (l : List Word) : State :=
  { poised fun w => w.setStack l with cfg := { Config.defaults with stackDepth := some 2 } }

theorem witness_CallPushesTheReturnAddress :
    (stackOf [0x202]).cfg.stackDepth ≠ some (stackOf [0x202]).work.stack.length ∧
      (stackOf [0x202, 0x302]).cfg.stackDepth = some 2 ∧ (stackOf [0x202, 0x302]).work.stack.length = 2 := by decide

theorem witness_ReturnPopsThePc :
    (stackOf [0x302, 0x202]).work.stack = [0x302] ++ [0x202] ∧ (stackOf []).work.stack = [] := by decide

theorem witness_CallThenReturnIsNetZero :
    ∃ t, exec (.call 0x400) (poised id) = .next t ∧ (t.work.fault == none && t.work.stack == (stackOf [0x202]).work.stack) = true :=
  exists_of_nextIs (by decide)

theorem witness_SkipsOnKeys :
    ((MachineState.reset.setReg 3 0xF).reg 3).toNat ≤ 0xF ∧ 0xF < ((MachineState.reset.setReg 3 0x10).reg 3).toNat := by decide

theorem witness_KeyWaitSpinsOrStoresAKey :
    (poised id).work.keys = 0 ∧
      (({ poised fun w => w.setKeys 0x8000 with cfg := { Config.defaults with keySelect := .lowest } } : State).cfg.keySelect = .lowest ∧
        (0x8000#16).getLsbD 15 = true ∧ ∀ j, j < 15 → (0x8000#16).getLsbD j = false) ∧
      (poised fun w => w.setKeys 0x8001).cfg.keySelect = .any ∧ (poised fun w => w.setKeys 0x8001).work.keys ≠ 0 ∧
      (0x8001#16).getLsbD 0 = true := by decide

/-- A working state with I at `a` and V3 at `b`. -/
def indexed (a : Word) (b : Byte) : MachineState := (MachineState.reset.setI a).setReg 3 b

theorem witness_IndexOperations :
    (indexed 0xFFF0 0x0F).i.toNat + ((indexed 0xFFF0 0x0F).reg 3).toNat ≤ 0xFFFF ∧
      0xFFFF < (indexed 0xFFF0 0x10).i.toNat + ((indexed 0xFFF0 0x10).reg 3).toNat ∧
      ((indexed 0 0xF).reg 3).toNat ≤ 0xF ∧ 0xF < ((indexed 0 0x10).reg 3).toNat := by decide

theorem witness_blocks :
    Memory.wf (poised id).cfg.font (poised id).work.mem = true ∧
      (indexed 0xFFC 0).i.toNat + (3 : Reg).toNat ≤ 0xFFF ∧ 0xFFF < (indexed 0xFFD 0).i.toNat + (3 : Reg).toNat ∧
      (indexed 0xFFD 0).i.toNat + 2 ≤ 0xFFF ∧ 0xFFF < (indexed 0xFFE 0).i.toNat + 2 := by decide

theorem witness_StoreThenLoadRestoresRegisters :
    Memory.wf (poised id).cfg.font (poised id).work.mem = true ∧
      ∃ t, exec (.store 3) (poised fun w => w.setI 0xFFC) = .next t ∧ (t.work.fault == none) = true :=
  ⟨by decide, exists_of_nextIs (by decide)⟩

theorem witness_DrawXorsTheSprite :
    ((0 : Nibble) = 0) ∧ (indexed 0xFFE 0).i.toNat + (2 : Nibble).toNat - 1 ≤ 0xFFF ∧
      (2 : Nibble) ≠ 0 ∧ 0xFFF < (indexed 0xFFF 0).i.toNat + (2 : Nibble).toNat - 1 := by decide

theorem witness_spriteCovers : spriteCovers [0x80] 63 31 63 31 ∧ ¬spriteCovers [0x80] 63 31 62 31 :=
  ⟨⟨0, 0, by decide⟩, fun ⟨_, _, _, _, h, _⟩ => by omega⟩

theorem witness_BootHoldsTheResetTable : (List.replicate 3584 (1 : Byte)).length ≤ 3584 := by
  rw [List.length_replicate]

theorem witness_OversizedImageNeverStarts : 3584 < (List.replicate 3585 (1 : Byte)).length := by
  rw [List.length_replicate]
  decide

/-- A call, with a return address already on the stack: the fast domain is next. -/
def calling : State := mem 0x200 [0x24, 0x00] { booted [] with work := MachineState.reset.setStack [0x302] }

theorem calling_shapeInv : calling.shapeInv where
  memory := by decide
  snapMemory := by decide
  frameMemory := by decide
  pc := by decide
  stackEntries := by
    have h : calling.work.stack = [0x302] := rfl
    simp [h]
  stackDepth := by
    have h : calling.cfg.stackDepth = none := rfl
    simp [h]
  fifoDepth := by
    have h : calling.cfg.signalFifoDepth = none := rfl
    simp [h]

theorem witness_StepKeepsTheShape :
    calling.shapeInv ∧ ∃ t, step calling = .next t ∧ (t.work.stack == [0x302, 0x202]) = true :=
  ⟨calling_shapeInv, exists_of_nextIs (by decide)⟩

theorem witness_StepKeepsTheLife : faultedAt.lifeInv ∧ answers (step faultedAt) = true :=
  ⟨faultedAt_lifeInv, by decide⟩

theorem witness_StepKeepsTheSynchronizer :
    State.syncInv { slowAt .s1 with keysIn := ⟨[3], 0⟩ } ∧ answers (step { slowAt .s1 with keysIn := ⟨[3], 0⟩ }) = true :=
  ⟨⟨fun _ => rfl, fun _ => rfl⟩, by decide⟩

theorem witness_DecrementsNeverOutrunTheFrames :
    ∃ t, step (slowAt .s4a) = .next t ∧
      tally .decrementDelayTimer .s4a (slowAt .s4a) (0 + (slowAt .s4a).sends .s4a)
        (0 + (slowAt .s4a).applies .decrementDelayTimer) t :=
  ⟨_, rfl, .more .start rfl⟩

theorem witness_FastStepSeesOnlyTheFifo : fastAgree (booted []) { booted [] with lastKeysSent := 3, sounding := true } := rfl

theorem witness_SlowStepSeesOnlyTheSnapshot : slowAgree (slowAt .s3) { slowAt .s3 with work := indexed 0x300 1 } := rfl

theorem witness_FaultEndsTheRunWithinAFrame : faultedAt.lifeInv ∧ faultedAt.loadError = false ∧ faultedAt.work.fault ≠ none :=
  ⟨faultedAt_lifeInv, by decide⟩

/-- The fast domain has not stopped, and the slow domain's burst goes on for three steps: the run comes to the fast one's turn. -/
theorem witness_EveryRunIsWeaklyFair :
    State.after 0 { slowAt .s1 with turns := ⟨.slow, 2, ⟨[], 0⟩⟩ } = some { slowAt .s1 with turns := ⟨.slow, 2, ⟨[], 0⟩⟩ } ∧
      State.enabled { slowAt .s1 with turns := ⟨.slow, 2, ⟨[], 0⟩⟩ } .fast = true :=
  ⟨rfl, by decide⟩

theorem witness_EveryInterleavingIsAdmitted :
    0 < ([.slow, .fast] : List Agent).length ∧ State.after 0 (slowAt .s1) = some (slowAt .s1) ∧ (slowAt .s1).enabled .slow = true :=
  ⟨by decide, rfl, by decide⟩

/-- A quit is queued and the fast domain has a publish to make first. -/
def quitting : State := { booted [] with fastPhase := .publish, fifo := [.terminate], slowStopped := true }

theorem quitting_lifeInv : quitting.lifeInv where
  terminatedStops := fun h => nomatch h
  faultTerminates := fun h => absurd rfl h
  faultPublished := fun h => absurd rfl h
  snapFresh := fun h => nomatch h
  terminateSent := fun _ => rfl
  quitStops := fun _ _ => rfl
  snapTerminated := fun h => nomatch h

theorem witness_QuitEndsTheRunWell :
    quitting.lifeInv ∧ quitting.loadError = false ∧ quitting.fastStopped = false ∧ quitting.fifoOverflow = false ∧
      Signal.terminate ∈ quitting.fifo :=
  ⟨quitting_lifeInv, by decide⟩

/-- A fault is published, and S3 is next. -/
def faultedAtS3 : State := { faultedAt with slowPhase := .s3 }

theorem witness_FrameStrobePulsesAfterS3 :
    (State.mover faultedAtS3 = some .slow ∧ faultedAtS3.lifeInv ∧
        ∃ t, step faultedAtS3 = .next t ∧ t.slowStopped = true) ∧
      ((slowAt .s4a).mover = some .slow ∧ answers (step (slowAt .s4a)) = true) ∧
      (booted [0x12, 0x34]).mover = some .fast ∧ answers (step (booted [0x12, 0x34])) = true :=
  ⟨⟨by decide, { faultedAt_lifeInv with }, exists_of_nextIs (by decide)⟩, by decide, by decide⟩

theorem witness_FaultPortsShowTheRecord :
    faultedAt.work.fault = some ⟨.unknownOpcode, 0x200, 0⟩ ∧
      ∃ t, step (booted [0x00, 0xEE]) = .next t ∧ ((booted [0x00, 0xEE]).work.fault == none && t.work.fault != none) = true :=
  ⟨rfl, exists_of_nextIs (by decide)⟩

end Sys2Proof.Machine.Tests
end

section
/-! # What each domain leaves alone and what the fast domain sees (00_scope.md R15)

The slow domain's frame is said once, as an equation for `State.slowStep`. That the fast domain sees nothing of the slow one's own
state is said by grafting that state from another block: every operation of the fast domain commutes with the graft. -/

namespace Sys2Proof.Machine

/-! ### The frame of a slow step -/

/-- An enqueue touches the FIFO and its sticky bit, nothing else. -/
theorem State.enqueue_eq (s : State) (g : Signal) :
    s.enqueue g = { s with fifo := (s.enqueue g).fifo, fifoOverflow := (s.enqueue g).fifoOverflow } := by
  rcases s.enqueue_cases g with ⟨-, h⟩ | ⟨-, h⟩ <;> rw [h]

theorem State.enqueue_fifo (s : State) (g : Signal) : (s.enqueue g).fifo = s.fifo ∨ ∃ g', (s.enqueue g).fifo = s.fifo ++ [g'] := by
  rcases s.enqueue_cases g with ⟨-, h⟩ | ⟨-, h⟩ <;> rw [h]
  · exact .inr ⟨g, rfl⟩
  · exact .inl rfl

/-- Sending the keys touches the FIFO, its sticky bit and the mask last sent, nothing else. -/
theorem State.sendKeys_eq (s : State) (m : Word) :
    s.sendKeys m =
      { s with
        fifo := (s.sendKeys m).fifo, fifoOverflow := (s.sendKeys m).fifoOverflow
        lastKeysSent := (s.sendKeys m).lastKeysSent } := by
  rcases s.sendKeys_cases m with ⟨-, h⟩ | ⟨-, h⟩ <;> rw [h]
  rw [State.enqueue_eq]

theorem State.sendKeys_fifo (s : State) (m : Word) :
    (s.sendKeys m).fifo = s.fifo ∨ ∃ g, (s.sendKeys m).fifo = s.fifo ++ [g] := by
  rcases s.sendKeys_cases m with ⟨-, h⟩ | ⟨-, h⟩ <;> rw [h]
  · exact .inl rfl
  · exact s.enqueue_fifo _

/-- A slow step touches the slow domain's own state and host inputs, the FIFO and its sticky bit, nothing else. -/
theorem State.slowStep_eq (s : State) :
    s.slowStep =
      { s with
        fifo := s.slowStep.fifo, fifoOverflow := s.slowStep.fifoOverflow, lastKeysSent := s.slowStep.lastKeysSent
        sounding := s.slowStep.sounding, frameSnap := s.slowStep.frameSnap, slowPhase := s.slowStep.slowPhase
        slowStopped := s.slowStep.slowStopped, keysIn := s.slowStep.keysIn, quitIn := s.slowStep.quitIn } := by
  unfold State.slowStep
  cases s.slowPhase with
  | s1 =>
    simp only [State.slowS1]
    rw [State.sendKeys_eq]
  | s2 =>
    simp only [State.slowS2]
    split
    · rw [State.enqueue_eq]
    · rfl
  | s3 =>
    simp only [State.slowS3]
    split
    · rfl
    · rfl
  | s4a =>
    simp only [State.slowS4a]
    rw [State.enqueue_eq]
  | s4b =>
    simp only [State.slowS4b]
    rw [State.enqueue_eq]
  | s5 | s6 => rfl

@[simp] theorem State.slowStep_cfg (s : State) : s.slowStep.cfg = s.cfg := by rw [State.slowStep_eq]
@[simp] theorem State.slowStep_work (s : State) : s.slowStep.work = s.work := by rw [State.slowStep_eq]
@[simp] theorem State.slowStep_fastPhase (s : State) : s.slowStep.fastPhase = s.fastPhase := by rw [State.slowStep_eq]
@[simp] theorem State.slowStep_fastStopped (s : State) : s.slowStep.fastStopped = s.fastStopped := by rw [State.slowStep_eq]
@[simp] theorem State.slowStep_snap (s : State) : s.slowStep.snap = s.snap := by rw [State.slowStep_eq]
@[simp] theorem State.slowStep_loadError (s : State) : s.slowStep.loadError = s.loadError := by rw [State.slowStep_eq]
@[simp] theorem State.slowStep_draws (s : State) : s.slowStep.draws = s.draws := by rw [State.slowStep_eq]

/-- A slow step takes nothing from the FIFO and appends at most one signal. -/
theorem State.slowStep_fifo (s : State) : s.slowStep.fifo = s.fifo ∨ ∃ g, s.slowStep.fifo = s.fifo ++ [g] := by
  unfold State.slowStep
  cases s.slowPhase with
  | s1 => exact s.sendKeys_fifo _
  | s2 =>
    simp only [State.slowS2]
    split
    · exact s.enqueue_fifo _
    · exact .inl rfl
  | s3 =>
    simp only [State.slowS3]
    split
    · exact .inl rfl
    · exact .inl rfl
  | s4a | s4b => exact s.enqueue_fifo _
  | s5 | s6 => exact .inl rfl

/-- Settles O20: the frame of a slow step and what it does to the FIFO, after a turn that touches neither. -/
theorem slowStepLeavesWorkingState : Obligations.SlowStepLeavesWorkingState := by
  intro s t hm h
  obtain rfl : s.afterTurn.slowStep = t := Host.Outcome.next.inj ((step_of_slow hm).symm.trans h)
  exact ⟨State.slowStep_work _, State.slowStep_snap _, State.slowStep_fastPhase _, State.slowStep_fastStopped _,
    State.slowStep_draws _, State.slowStep_cfg _, State.slowStep_loadError _, State.slowStep_fifo _⟩

/-! ### The graft of the slow domain's own state -/

/-- `s` with the slow domain's own state, the turns and the host inputs of `u`. -/
def State.withSlowOf (s u : State) : State :=
  { s with
    lastKeysSent := u.lastKeysSent, sounding := u.sounding, frameSnap := u.frameSnap, slowPhase := u.slowPhase
    slowStopped := u.slowStopped, turns := u.turns, keysIn := u.keysIn, quitIn := u.quitIn }

/-- Two states agree for the fast domain exactly where the second is the first with the second's slow domain. -/
theorem fastAgree_iff (s t : State) : fastAgree s t ↔ t = s.withSlowOf t := Iff.rfl

theorem fastAgree_withSlowOf (s u : State) : fastAgree s (s.withSlowOf u) := rfl

@[simp] theorem State.withSlowOf_cfg (s u : State) : (s.withSlowOf u).cfg = s.cfg := rfl
@[simp] theorem State.withSlowOf_fastPhase (s u : State) : (s.withSlowOf u).fastPhase = s.fastPhase := rfl
@[simp] theorem State.withSlowOf_top (s u : State) : (s.withSlowOf u).top = s.top := rfl
@[simp] theorem State.withSlowOf_fetchWord (s u : State) : (s.withSlowOf u).fetchWord = s.fetchWord := rfl

/-- The outcome with the graft made on its next state. -/
def graftNext (u : State) : Host.Outcome State Fault Refusal → Host.Outcome State Fault Refusal
  | .next s => .next (s.withSlowOf u)
  | .fault r => .fault r
  | .refused r => .refused r

theorem graftNext_next (s u : State) : graftNext u (.next s) = .next (s.withSlowOf u) := rfl

/-- A guarded outcome is grafted branch by branch. -/
theorem ite_eq_graftNext {u : State} {c : Prop} [Decidable c] {a a' b b' : Host.Outcome State Fault Refusal}
    (ha : a' = graftNext u a) (hb : b' = graftNext u b) : (if c then a' else b') = graftNext u (if c then a else b) := by
  rw [ha, hb, apply_ite (graftNext u)]

/-! What the fast domain does commutes with the graft, operation by operation. -/

theorem State.skipIf_withSlowOf (s u : State) (c : Bool) : (s.withSlowOf u).skipIf c = (s.skipIf c).withSlowOf u := by
  rw [State.skipIf_eq, State.skipIf_eq]
  rfl

theorem State.afterAlias_withSlowOf (s u : State) : (s.withSlowOf u).afterAlias = s.afterAlias.withSlowOf u := by
  unfold State.afterAlias
  rw [State.withSlowOf_cfg]
  cases s.cfg.vfAliasOrder <;> rfl

theorem State.afterKeySelect_withSlowOf (s u : State) :
    (s.withSlowOf u).afterKeySelect = s.afterKeySelect.withSlowOf u := by
  unfold State.afterKeySelect
  rw [State.withSlowOf_cfg]
  cases s.cfg.keySelect <;> rfl

theorem State.writeResultAndFlag_withSlowOf (s u : State) (x : Reg) (r : Byte) (f : Bool) :
    (s.withSlowOf u).writeResultAndFlag x r f = (s.writeResultAndFlag x r f).withSlowOf u := by
  by_cases hx : x = vf
  · rw [hx, State.writeResultAndFlag_vf, State.writeResultAndFlag_vf, State.afterAlias_withSlowOf]
    rfl
  · rw [State.writeResultAndFlag_of_ne _ _ _ hx, State.writeResultAndFlag_of_ne _ _ _ hx]
    rfl

/-- What a skip instruction answers where it raises no fault. -/
theorem next_skipIf_withSlowOf (s u : State) (c : Bool) :
    .next ((s.withSlowOf u).skipIf c) = graftNext u (.next (s.skipIf c)) := congrArg _ (s.skipIf_withSlowOf u c)

/-- No instruction sees the slow domain's own state: its guard and its results read only what the graft leaves, so what remains
beyond the operations above holds by computation. -/
theorem exec_withSlowOf (i : Instr) (s u : State) : exec i (s.withSlowOf u) = graftNext u (exec i s) := by
  cases i with
  | cls | jp | ldImm | addImm | ldReg | orReg | andReg | xorReg | ldI | jpV0 | rnd | ldFromDt | ldToDt | ldToSt => rfl
  | seImm | sneImm | seReg | sneReg => exact next_skipIf_withSlowOf s u _
  | addReg | sub | subn | shr | shl => exact congrArg Host.Outcome.next (s.writeResultAndFlag_withSlowOf u _ _ _)
  | call | addI | ldFont | store | load | bcd | drw => exact ite_eq_graftNext rfl rfl
  | skp | sknp => exact ite_eq_graftNext (next_skipIf_withSlowOf s u _) rfl
  | ldKey x =>
    refine ite_eq_graftNext rfl ?_
    rw [State.afterKeySelect_withSlowOf]
    rfl
  | ret =>
    show execRet _ = graftNext u (execRet s)
    unfold execRet
    rw [State.withSlowOf_top]
    cases s.top <;> rfl

theorem State.instructionCycle_withSlowOf (s u : State) :
    (s.withSlowOf u).instructionCycle = graftNext u s.instructionCycle := by
  refine ite_eq_graftNext ?_ rfl
  rw [State.withSlowOf_fetchWord]
  cases decode s.fetchWord with
  | ok i => exact exec_withSlowOf i s.advance u
  | error e => rfl

theorem State.tickDrainExecute_withSlowOf (s u : State) :
    (s.withSlowOf u).tickDrainExecute = graftNext u s.tickDrainExecute :=
  ite_eq_graftNext rfl (ite_eq_graftNext rfl (s.drain.instructionCycle_withSlowOf u))

/-- No fast step sees the slow domain's own state. -/
theorem State.fastStep_withSlowOf (s u : State) : (s.withSlowOf u).fastStep = graftNext u s.fastStep := by
  unfold State.fastStep
  rw [State.withSlowOf_fastPhase]
  cases s.fastPhase with
  | drain => exact s.tickDrainExecute_withSlowOf u
  | publish => rfl

theorem State.fastStep_next (s : State) : ∃ t, s.fastStep = .next t := by
  unfold State.fastStep
  cases s.fastPhase with
  | drain => exact s.tickDrainExecute_next
  | publish => exact ⟨_, rfl⟩

/-- Settles O53: the second state is the first under a graft, which the fast step commutes with. -/
theorem fastStepSeesOnlyTheFifo : Obligations.FastStepSeesOnlyTheFifo := by
  intro s t hagree
  obtain ⟨s', hs⟩ := s.fastStep_next
  have ht : t.fastStep = .next (s'.withSlowOf t) := by
    calc t.fastStep = (s.withSlowOf t).fastStep := congrArg State.fastStep ((fastAgree_iff s t).1 hagree)
      _ = graftNext t s.fastStep := s.fastStep_withSlowOf t
      _ = .next (s'.withSlowOf t) := by rw [hs, graftNext_next]
  exact ⟨s', s'.withSlowOf t, hs, ht, fastAgree_withSlowOf s' t⟩

end Sys2Proof.Machine
end

section
/-! # The status, the stops and the snapshot (10_state.md R30 to R35)

What a slow step does to the FIFO, to the frame's snapshot and to its stop is said once; the life invariant and the one-way
statement are then read off the ways a step can go. -/

namespace Sys2Proof.Machine

/-! ### What a slow step does to the FIFO, the frame's snapshot and its stop -/

@[simp] theorem State.enqueue_frameSnap (s : State) (g : Signal) : (s.enqueue g).frameSnap = s.frameSnap := by
  rw [State.enqueue_eq]

@[simp] theorem State.enqueue_slowStopped (s : State) (g : Signal) : (s.enqueue g).slowStopped = s.slowStopped := by
  rw [State.enqueue_eq]

/-- A slow step leaves the FIFO or makes one enqueue, and stops where it sends Terminate; the frame's snapshot stays or is read from
the slot; a stop stays. -/
theorem State.slowStep_effects (s : State) :
    (s.slowStep.fifo = s.fifo ∨
      ∃ g, s.slowStep.fifo = (s.enqueue g).fifo ∧ (g = .terminate → s.slowStep.slowStopped = true)) ∧
    (s.slowStep.frameSnap = s.frameSnap ∨ s.slowStep.frameSnap = s.snap) ∧
    (s.slowStopped = true → s.slowStep.slowStopped = true) := by
  unfold State.slowStep
  cases s.slowPhase with
  | s1 =>
    simp only [State.slowS1]
    rcases s.sendKeys_cases s.sampledKeys with ⟨-, h⟩ | ⟨-, h⟩ <;> rw [h]
    · exact ⟨.inl rfl, .inl rfl, id⟩
    · exact ⟨.inr ⟨.setKeys s.sampledKeys, rfl, nofun⟩, .inl (s.enqueue_frameSnap _), (s.enqueue_slowStopped _).trans⟩
  | s2 =>
    simp only [State.slowS2]
    split
    · exact ⟨.inr ⟨.terminate, rfl, fun _ => rfl⟩, .inl (s.enqueue_frameSnap _), fun _ => rfl⟩
    · exact ⟨.inl rfl, .inl rfl, id⟩
  | s3 =>
    simp only [State.slowS3]
    split
    · exact ⟨.inl rfl, .inr rfl, fun _ => rfl⟩
    · exact ⟨.inl rfl, .inr rfl, id⟩
  | s4a =>
    exact ⟨.inr ⟨.decrementDelayTimer, rfl, nofun⟩, .inl (s.enqueue_frameSnap _), (s.enqueue_slowStopped _).trans⟩
  | s4b =>
    exact ⟨.inr ⟨.decrementSoundTimer, rfl, nofun⟩, .inl (s.enqueue_frameSnap _), (s.enqueue_slowStopped _).trans⟩
  | s5 | s6 => exact ⟨.inl rfl, .inl rfl, id⟩

theorem State.slowStep_frameSnap (s : State) : s.slowStep.frameSnap = s.frameSnap ∨ s.slowStep.frameSnap = s.snap :=
  have ⟨_, hframe, _⟩ := s.slowStep_effects
  hframe

/-- No slow step takes the stop of the slow domain back. -/
theorem State.slowStep_slowStopped {s : State} (hs : s.slowStopped = true) : s.slowStep.slowStopped = true :=
  have ⟨_, _, hstop⟩ := s.slowStep_effects
  hstop hs

theorem State.mem_enqueue_fifo {s : State} {g g' : Signal} (h : g' ∈ (s.enqueue g).fifo) : g' ∈ s.fifo ∨ g' = g := by
  rcases s.enqueue_cases g with ⟨-, he⟩ | ⟨-, he⟩ <;> rw [he] at h
  · simpa using h
  · exact .inl h

/-- A Terminate in the FIFO after a slow step was there before, or the step sent it and stopped. -/
theorem State.terminate_mem_slowStep_fifo {s : State} (h : Signal.terminate ∈ s.slowStep.fifo) :
    Signal.terminate ∈ s.fifo ∨ s.slowStep.slowStopped = true := by
  obtain ⟨hf | ⟨g, hf, hstop⟩, -⟩ := s.slowStep_effects <;> rw [hf] at h
  · exact .inl h
  · exact (State.mem_enqueue_fifo h).imp_right fun hg => hstop hg.symm

/-! ### What a drain does to the status and the fault -/

@[simp] theorem MachineState.applySignals_fault (w : MachineState) (l : List Signal) : (w.applySignals l).fault = w.fault := by
  rw [MachineState.applySignals_eq]

theorem MachineState.applySignal_status_iff (w : MachineState) (g : Signal) :
    (w.applySignal g).status = .terminated ↔ w.status = .terminated ∨ g = .terminate := by
  cases g <;> simp [MachineState.applySignal]

/-- A drain terminates exactly on a Terminate among the signals; a Terminated status stays. -/
theorem MachineState.applySignals_status_iff (w : MachineState) (l : List Signal) :
    (w.applySignals l).status = .terminated ↔ w.status = .terminated ∨ .terminate ∈ l := by
  induction l generalizing w with
  | nil => simp
  | cons g l ih => rw [applySignals_cons, ih, applySignal_status_iff, List.mem_cons, eq_comm (a := g), or_assoc]

/-! ### The life invariant -/

theorem State.lifeInv.afterTurn {s : State} (hs : s.lifeInv) : s.afterTurn.lifeInv :=
  ⟨hs.terminatedStops, hs.faultTerminates, hs.faultPublished, hs.snapFresh, hs.terminateSent, hs.quitStops, hs.snapTerminated⟩

/-- Under the life invariant nothing is terminated while the fast domain can step. -/
theorem State.lifeInv.status_ne {s : State} (hs : s.lifeInv) (hl : s.loadError = false) (hf : s.fastStopped = false) :
    s.work.status ≠ .terminated := by
  intro ht
  simpa [hl, hf] using hs.terminatedStops ht

/-- Under the life invariant no fault is recorded while the fast domain can step. -/
theorem State.lifeInv.fault_eq_none {s : State} (hs : s.lifeInv) (hl : s.loadError = false) (hf : s.fastStopped = false) :
    s.work.fault = none :=
  Decidable.byContradiction fun h => hs.status_ne hl hf (hs.faultTerminates h)

theorem State.lifeInv.snap_status_ne {s : State} (hs : s.lifeInv) (hf : s.fastStopped = false) :
    s.snap.status ≠ .terminated := by
  intro ht
  simpa [hf] using (hs.snapTerminated ht).1

/-- The fault path ends the life of any state whose FIFO holds a Terminate only of a stopped slow domain. -/
theorem State.takeFault_lifeInv {s : State} (c : FaultCode) (n : Word)
    (hsent : Signal.terminate ∈ s.fifo → s.slowStopped = true) : (s.takeFault c n).lifeInv where
  terminatedStops _ := .inl rfl
  faultTerminates _ := rfl
  faultPublished _ _ := rfl
  snapFresh _ hf _ := nomatch hf
  terminateSent := hsent
  quitStops _ hf := nomatch hf
  snapTerminated _ := ⟨rfl, nofun⟩

theorem State.tickPublish_lifeInv {s : State} (hs : s.lifeInv) (hl : s.loadError = false) (hf : s.fastStopped = false) :
    s.tickPublish.lifeInv where
  terminatedStops := hs.terminatedStops
  faultTerminates := hs.faultTerminates
  faultPublished _ _ := rfl
  snapFresh _ _ _ := rfl
  terminateSent := hs.terminateSent
  quitStops := hs.quitStops
  snapTerminated ht := absurd ht (hs.status_ne hl hf)

/-- The drain that finds the block terminated had a Terminate to apply, whose sender has stopped. -/
theorem State.stopFast_drain_lifeInv {s : State} (hs : s.lifeInv) (hl : s.loadError = false) (hf : s.fastStopped = false)
    (ht : s.drain.work.status = .terminated) : s.drain.stopFast.lifeInv where
  terminatedStops _ := .inl rfl
  faultTerminates _ := ht
  faultPublished hne := absurd ((s.work.applySignals_fault s.fifo).trans (hs.fault_eq_none hl hf)) hne
  snapFresh _ hstop := nomatch hstop
  terminateSent hmem := nomatch hmem
  quitStops _ _ :=
    hs.terminateSent (((s.work.applySignals_status_iff s.fifo).1 ht).resolve_left (hs.status_ne hl hf))
  snapTerminated h := absurd h (hs.snap_status_ne hf)

/-- An instruction that completes leaves an active block in phase Publish. -/
theorem State.completed_lifeInv {s t : State} (hs : s.lifeInv) (hl : s.loadError = false) (hf : s.fastStopped = false)
    (ht : t = { s.drain.advance with work := t.work, draws := t.draws }) (hstatus : t.work.status ≠ .terminated)
    (hfault : t.work.fault = s.work.fault) : t.lifeInv := by
  have hnone : t.work.fault = none := hfault.trans (hs.fault_eq_none hl hf)
  have hphase : t.fastPhase = .publish := by rw [ht]; rfl
  have hfifo : t.fifo = [] := by rw [ht]; rfl
  have hsnap : t.snap = s.snap := by rw [ht]; rfl
  exact {
    terminatedStops := fun h => absurd h hstatus
    faultTerminates := fun h => absurd hnone h
    faultPublished := fun h => absurd hnone h
    snapFresh := fun h => absurd (h.symm.trans hphase) nofun
    terminateSent := fun h => by simp [hfifo] at h
    quitStops := fun h => absurd h hstatus
    snapTerminated := fun h => absurd (hsnap ▸ h) (hs.snap_status_ne hf) }

theorem State.fastStep_lifeInv {s t : State} (hs : s.lifeInv) (hl : s.loadError = false) (hf : s.fastStopped = false)
    (h : s.fastStep = .next t) : t.lifeInv := by
  rcases s.fastStep_cases with
      ⟨-, h'⟩ | ⟨-, -, h'⟩ | ⟨-, -, ht, h'⟩ | ⟨-, -, -, c, n, h'⟩ |
      ⟨-, -, hactive, -, i, u, -, h', hu, -, hstatus, hfault⟩ <;>
    obtain rfl := Host.Outcome.next.inj (h.symm.trans h')
  · exact State.tickPublish_lifeInv hs hl hf
  · exact State.takeFault_lifeInv _ _ hs.terminateSent
  · exact State.stopFast_drain_lifeInv hs hl hf ht
  · exact State.takeFault_lifeInv _ _ nofun
  · exact State.completed_lifeInv hs hl hf hu (hstatus ▸ hactive) hfault

/-- A slow step leaves what the invariant says of the fast domain, sends Terminate only as it stops, and never starts again. -/
theorem State.slowStep_lifeInv {s : State} (hs : s.lifeInv) : s.slowStep.lifeInv where
  terminatedStops := by simpa using hs.terminatedStops
  faultTerminates := by simpa using hs.faultTerminates
  faultPublished := by simpa using hs.faultPublished
  snapFresh := by simpa using hs.snapFresh
  terminateSent hmem :=
    (State.terminate_mem_slowStep_fifo hmem).elim (fun h => State.slowStep_slowStopped (hs.terminateSent h)) id
  quitStops ht hf :=
    State.slowStep_slowStopped (hs.quitStops (s.slowStep_work ▸ ht) (s.slowStep_work ▸ hf))
  snapTerminated := by simpa using hs.snapTerminated

/-- Settles O49: the fast and the slow step each keep the life invariant, which the turns do not touch. -/
theorem stepKeepsTheLife : Obligations.StepKeepsTheLife := by
  intro s t hs h
  rcases step_cases h with ⟨hm, hfast⟩ | ⟨-, rfl⟩
  · obtain ⟨hl, hf⟩ := State.mover_fast hm
    exact State.fastStep_lifeInv hs.afterTurn hl hf hfast
  · exact State.slowStep_lifeInv hs.afterTurn

/-! ### What never goes back -/

/-- A fast step takes neither the status nor a stop back, and the snapshot slot changes only into the working state. -/
theorem State.fastStep_oneWay {s t : State} (h : s.fastStep = .next t) :
    (s.work.status = .terminated → t.work.status = .terminated) ∧ (s.fastStopped = true → t.fastStopped = true) ∧
      t.slowStopped = s.slowStopped ∧ (t.snap = s.snap ∨ t.snap = t.work) := by
  have hdrain : s.work.status = .terminated → s.drain.work.status = .terminated :=
    fun hs => (s.work.applySignals_status_iff s.fifo).2 (.inl hs)
  rcases s.fastStep_cases with
      ⟨-, h'⟩ | ⟨-, -, h'⟩ | ⟨-, -, ht, h'⟩ | ⟨-, -, -, c, n, h'⟩ | ⟨-, -, hactive, -, i, u, -, h', hu, -⟩ <;>
    obtain rfl := Host.Outcome.next.inj (h.symm.trans h')
  · exact ⟨id, id, rfl, .inr rfl⟩
  · exact ⟨fun _ => rfl, fun _ => rfl, rfl, .inr rfl⟩
  · exact ⟨fun _ => ht, fun _ => rfl, rfl, .inl rfl⟩
  · exact ⟨fun _ => rfl, fun _ => rfl, rfl, .inr rfl⟩
  · refine ⟨fun hs => absurd (hdrain hs) hactive, fun hs => ?_, ?_, .inl ?_⟩ <;> rw [hu]
    · exact hs
    · rfl
    · rfl

/-- Settles O22: a fast step takes nothing back, a slow step leaves the working state and the slot, and under the life invariant a
recorded fault leaves only slow steps. -/
theorem terminationIsOneWay : Obligations.TerminationIsOneWay := by
  intro s t h
  rcases step_cases h with ⟨hm, hfast⟩ | ⟨-, rfl⟩
  · obtain ⟨hl, hf⟩ := State.mover_fast hm
    obtain ⟨hstatus, hstop, hslow, hsnap⟩ := State.fastStep_oneWay hfast
    exact ⟨hstatus, hstop, hslow.trans, hsnap, fun hs r hr => absurd (hr.symm.trans (hs.fault_eq_none hl hf)) nofun⟩
  · simp only [State.slowStep_work, State.slowStep_fastStopped, State.slowStep_snap]
    exact ⟨id, id, State.slowStep_slowStopped (s := s.afterTurn), .inl rfl, fun _ _ => id⟩

end Sys2Proof.Machine
end

section
/-! # What each instruction writes (10_state.md R19 to R29)

An instruction with a guard completes under it or takes the fault path, so each statement about what an execution leaves is
made of two parts: the fault path, once, and the completed instruction, by the kind of its write. -/

namespace Sys2Proof.Machine

/-! ### Guarded instructions -/

/-- What holds on the fault path and where the guard lets the instruction complete, holds of whatever it leaves. -/
theorem of_next_or_raise {P : State → Prop} {s u t : State} {g : Prop} [Decidable g] {code : FaultCode} {info : Word}
    (h : (if g then .next u else s.raise code info) = .next t) (hfault : ∀ c n, P (s.retreat.takeFault c n))
    (hdone : g → P u) : P t := by
  split at h
  · next hg => exact Host.Outcome.next.inj h ▸ hdone hg
  · exact Host.Outcome.next.inj h ▸ hfault _ _

/-- The same with the guard the other way round: where it holds, the instruction faults. -/
theorem of_raise_or_next {P : State → Prop} {s u t : State} {g : Prop} [Decidable g] {code : FaultCode} {info : Word}
    (h : (if g then s.raise code info else .next u) = .next t) (hfault : ∀ c n, P (s.retreat.takeFault c n))
    (hdone : ¬g → P u) : P t := by
  split at h
  · exact Host.Outcome.next.inj h ▸ hfault _ _
  · next hg => exact Host.Outcome.next.inj h ▸ hdone hg

/-- A return pops the top into the pc, or takes the fault path. -/
theorem of_execRet {P : State → Prop} {s t : State} (h : execRet s = .next t)
    (hfault : ∀ c n, P (s.retreat.takeFault c n)) (hdone : ∀ a, s.top = some a → P (s.popped.jump a)) : P t := by
  unfold execRet at h
  split at h
  · exact Host.Outcome.next.inj h ▸ hfault _ _
  · next a ha => exact Host.Outcome.next.inj h ▸ hdone a ha

/-- FX0A spins with no key pressed, and stores a key otherwise. -/
theorem of_execLdKey {P : State → Prop} {s t : State} {x : Reg} (h : execLdKey x s = .next t)
    (hspin : s.work.keys = 0 → P (s.jump (s.work.pc - 2)))
    (hstore : s.work.keys ≠ 0 → P (s.afterKeySelect.setWork (s.work.setReg x s.selectedKey))) : P t := by
  unfold execLdKey at h
  split at h
  · next hk => exact Host.Outcome.next.inj h ▸ hspin hk
  · next hk => exact Host.Outcome.next.inj h ▸ hstore hk

/-! ### Memory, I, the stack, the display and the timers -/

/-- What an execution leaves of everything but the registers, the pc, the keys and the record. -/
structure KeepsOthers (i : Instr) (s t : State) : Prop where
  mem : storesMemory i = false → t.work.mem = s.work.mem
  index : writesI i = false → t.work.i = s.work.i
  stack : usesStack i = false → t.work.stack = s.work.stack
  disp : writesDisplay i = false → t.work.disp = s.work.disp
  dt : (∀ x, i ≠ .ldToDt x) → t.work.dt = s.work.dt
  st : (∀ x, i ≠ .ldToSt x) → t.work.st = s.work.st

theorem takeFault_keepsOthers (i : Instr) (s : State) (c : FaultCode) (n : Word) :
    KeepsOthers i s (s.retreat.takeFault c n) :=
  ⟨fun _ => rfl, fun _ => rfl, fun _ => rfl, fun _ => rfl, fun _ => rfl, fun _ => rfl⟩

/-- An execution that writes registers and the pc only. -/
theorem keepsOthers_of_eq {i : Instr} {s t : State} (h : t.work = { s.work with v := t.work.v, pc := t.work.pc }) :
    KeepsOthers i s t := by
  constructor <;> intro _ <;> rw [h]

theorem State.skipIf_keepsOthers (i : Instr) (s : State) (c : Bool) : KeepsOthers i s (s.skipIf c) :=
  keepsOthers_of_eq (by rw [State.skipIf_eq]; rfl)

theorem State.writeResultAndFlag_keepsOthers (i : Instr) (s : State) (x : Reg) (r : Byte) (f : Bool) :
    KeepsOthers i s (s.writeResultAndFlag x r f) :=
  keepsOthers_of_eq (by rw [State.writeResultAndFlag_eq])

/-- Each of these is written by its own instructions only; the fault path writes none of them. -/
theorem exec_keepsOthers {i : Instr} {s t : State} (h : exec i s = .next t) : KeepsOthers i s t := by
  have hfault := takeFault_keepsOthers i s
  cases i with
  | jp | ldImm | addImm | ldReg | orReg | andReg | xorReg | jpV0 | rnd | ldFromDt =>
    exact Host.Outcome.next.inj h ▸ keepsOthers_of_eq rfl
  | seImm | sneImm | seReg | sneReg => exact Host.Outcome.next.inj h ▸ s.skipIf_keepsOthers _ _
  | addReg | sub | subn | shr | shl => exact Host.Outcome.next.inj h ▸ s.writeResultAndFlag_keepsOthers _ _ _ _
  | skp | sknp => exact of_next_or_raise h hfault fun _ => s.skipIf_keepsOthers _ _
  | ldKey => exact of_execLdKey h (fun _ => keepsOthers_of_eq rfl) fun _ => keepsOthers_of_eq rfl
  | load => exact of_next_or_raise h hfault fun _ => keepsOthers_of_eq rfl
  | cls =>
    exact Host.Outcome.next.inj h ▸
      ⟨fun _ => rfl, fun _ => rfl, fun _ => rfl, nofun, fun _ => rfl, fun _ => rfl⟩
  | drw =>
    exact of_next_or_raise h hfault fun _ =>
      ⟨fun _ => rfl, fun _ => rfl, fun _ => rfl, nofun, fun _ => rfl, fun _ => rfl⟩
  | ldI =>
    exact Host.Outcome.next.inj h ▸
      ⟨fun _ => rfl, nofun, fun _ => rfl, fun _ => rfl, fun _ => rfl, fun _ => rfl⟩
  | addI =>
    exact of_raise_or_next h hfault fun _ =>
      ⟨fun _ => rfl, nofun, fun _ => rfl, fun _ => rfl, fun _ => rfl, fun _ => rfl⟩
  | ldFont =>
    exact of_next_or_raise h hfault fun _ =>
      ⟨fun _ => rfl, nofun, fun _ => rfl, fun _ => rfl, fun _ => rfl, fun _ => rfl⟩
  | call =>
    exact of_raise_or_next h hfault fun _ =>
      ⟨fun _ => rfl, fun _ => rfl, nofun, fun _ => rfl, fun _ => rfl, fun _ => rfl⟩
  | ret =>
    exact of_execRet h hfault fun _ _ =>
      ⟨fun _ => rfl, fun _ => rfl, nofun, fun _ => rfl, fun _ => rfl, fun _ => rfl⟩
  | store | bcd =>
    exact of_next_or_raise h hfault fun _ =>
      ⟨nofun, fun _ => rfl, fun _ => rfl, fun _ => rfl, fun _ => rfl, fun _ => rfl⟩
  | ldToDt x =>
    exact Host.Outcome.next.inj h ▸
      ⟨fun _ => rfl, fun _ => rfl, fun _ => rfl, fun _ => rfl, fun hx => absurd rfl (hx x), fun _ => rfl⟩
  | ldToSt x =>
    exact Host.Outcome.next.inj h ▸
      ⟨fun _ => rfl, fun _ => rfl, fun _ => rfl, fun _ => rfl, fun _ => rfl, fun hx => absurd rfl (hx x)⟩

/-- No execution changes the parameters or `keys`. -/
theorem exec_cfg_keys {i : Instr} {s t : State} (h : exec i s = .next t) : t.cfg = s.cfg ∧ t.work.keys = s.work.keys := by
  rcases exec_cases i s with ⟨c, n, h'⟩ | ⟨u, h', hu, hkeys, -, -⟩ <;> obtain rfl := Host.Outcome.next.inj (h.symm.trans h')
  · exact ⟨rfl, rfl⟩
  · exact ⟨by rw [hu], hkeys⟩

theorem sameBytes_of_mem {s t : State} (hc : t.cfg = s.cfg) (hm : t.work.mem = s.work.mem) : sameBytes s t := by
  intro a
  rw [State.readByte, State.readByte, hc, hm]

/-- Settles O24: `exec_keepsOthers`, with memory said byte by byte, and the frame of `keys`. -/
theorem eachStateHasItsOwnWriters : Obligations.EachStateHasItsOwnWriters := by
  intro i s t h
  obtain ⟨hmem, hi, hstack, hdisp, hdt, hst⟩ := exec_keepsOthers h
  obtain ⟨hcfg, hkeys⟩ := exec_cfg_keys h
  exact ⟨fun hs => ⟨hmem hs, sameBytes_of_mem hcfg (hmem hs)⟩, hi, hstack, hdisp, hdt, hst, hkeys⟩

/-! ### The V registers -/

theorem State.skipIf_reg (s : State) (c : Bool) (y : Reg) : (s.skipIf c).work.reg y = s.work.reg y := by
  rw [State.skipIf_eq]
  rfl

theorem State.writeResultAndFlag_reg_of_ne (s : State) {x y : Reg} (r : Byte) (f : Bool) (hx : y ≠ x) (hf : y ≠ vf) :
    (s.writeResultAndFlag x r f).work.reg y = s.work.reg y := by
  by_cases h : x = vf
  · subst h
    rw [State.writeResultAndFlag_vf]
    exact MachineState.reg_setReg_of_ne _ _ hf
  · rw [State.writeResultAndFlag_of_ne _ _ _ h]
    exact (MachineState.reg_setReg_of_ne _ _ hf).trans (MachineState.reg_setReg_of_ne _ _ hx)

/-- A list of bytes shorter than y's index leaves Vy. -/
theorem MachineState.reg_setRegs_of_le (w : MachineState) {bs : List Byte} {y : Reg} (h : bs.length ≤ y.toNat) :
    (w.setRegs bs).reg y = w.reg y := by
  rw [MachineState.setRegs_reg]
  exact List.getD_eq_default _ _ h

/-- Vy is as before. -/
def SameReg (y : Reg) (s t : State) : Prop := t.work.reg y = s.work.reg y

/-- A register that is neither the destination nor a written VF is read through the instruction's writes. -/
theorem exec_sameReg {i : Instr} {s t : State} {y : Reg} (h : exec i s = .next t) (hdest : isDestination i y = false)
    (hvf : y = vf → writesFlag i = false) : SameReg y s t := by
  have hfault : ∀ c n, SameReg y s (s.retreat.takeFault c n) := fun _ _ => rfl
  cases i with
  | cls | jp | jpV0 | ldI | ldToDt | ldToSt => exact Host.Outcome.next.inj h ▸ rfl
  | seImm | sneImm | seReg | sneReg => exact Host.Outcome.next.inj h ▸ s.skipIf_reg _ y
  | skp | sknp => exact of_next_or_raise h hfault fun _ => s.skipIf_reg _ y
  | ldFont | store | bcd => exact of_next_or_raise h hfault fun _ => rfl
  | addI | call => exact of_raise_or_next h hfault fun _ => rfl
  | ret => exact of_execRet h hfault fun _ _ => rfl
  | ldImm | addImm | ldReg | orReg | andReg | xorReg | rnd | ldFromDt =>
    exact Host.Outcome.next.inj h ▸ MachineState.reg_setReg_of_ne _ _ (of_decide_eq_false hdest)
  | ldKey =>
    exact of_execLdKey h (fun _ => rfl) fun _ => MachineState.reg_setReg_of_ne _ _ (of_decide_eq_false hdest)
  | addReg | sub | subn | shr | shl =>
    exact Host.Outcome.next.inj h ▸
      s.writeResultAndFlag_reg_of_ne _ _ (of_decide_eq_false hdest) fun hy => nomatch hvf hy
  | drw =>
    exact of_next_or_raise h hfault fun _ => MachineState.reg_setReg_of_ne _ _ fun hy => nomatch hvf hy
  | load x =>
    have hxy : x.toNat < y.toNat := BitVec.not_le.1 (of_decide_eq_false hdest)
    exact of_next_or_raise h hfault fun _ => MachineState.reg_setRegs_of_le _ (State.readBytes_length .. ▸ hxy)

/-- Settles O25, which is `exec_sameReg`. -/
theorem registersHaveTheirOwnWriters : Obligations.RegistersHaveTheirOwnWriters := fun _ _ _ _ => exec_sameReg

/-! ### The pc -/

theorem State.skipIf_pc (s : State) (c : Bool) : (s.skipIf c).work.pc = if c then s.work.pc + 2 else s.work.pc := by
  rw [State.skipIf_eq]
  rfl

theorem State.writeResultAndFlag_pc (s : State) (x : Reg) (r : Byte) (f : Bool) :
    (s.writeResultAndFlag x r f).work.pc = s.work.pc := by
  rw [State.writeResultAndFlag_eq]

/-- The sum of BNNN, which is below 2^16, as a word. -/
theorem zext16_add_zext16 (n : Addr) (b : Byte) : zext16 n + zext16 b = BitVec.ofNat 16 (n.toNat + b.toNat) := by
  rw [zext16_addr, zext16_byte, BitVec.ofNat_add]

theorem add_two_add_two (a : Word) : a + 2#16 + 2#16 = a + 4#16 := BitVec.add_assoc a 2#16 2#16

/-- The fault path was taken, or the pc is left as R23 says. -/
def FaultsOrLeavesPc (i : Instr) (a : Word) (s t : State) : Prop :=
  (∃ c n, t = s.retreat.takeFault c n) ∨ leavesPcAsStated i a s t

theorem exec_pc {i : Instr} {a : Word} {s t : State} (hpc : s.work.pc = a + 2) (h : exec i s = .next t) :
    FaultsOrLeavesPc i a s t := by
  have hfault : ∀ c n, FaultsOrLeavesPc i a s (s.retreat.takeFault c n) := fun c n => .inl ⟨c, n, rfl⟩
  cases i with
  | cls | ldImm | addImm | ldReg | orReg | andReg | xorReg | ldI | rnd | ldFromDt | ldToDt | ldToSt =>
    exact Host.Outcome.next.inj h ▸ .inr hpc
  | addReg | sub | subn | shr | shl =>
    exact Host.Outcome.next.inj h ▸ .inr ((s.writeResultAndFlag_pc _ _ _).trans hpc)
  | ldFont | store | load | bcd | drw => exact of_next_or_raise h hfault fun _ => .inr hpc
  | addI => exact of_raise_or_next h hfault fun _ => .inr hpc
  | jp nnn => exact Host.Outcome.next.inj h ▸ .inr (zext16_addr nnn)
  | call nnn => exact of_raise_or_next h hfault fun _ => .inr (zext16_addr nnn)
  | jpV0 nnn => exact Host.Outcome.next.inj h ▸ .inr (zext16_add_zext16 nnn (s.work.reg 0))
  | ret => exact of_execRet h hfault fun _ htop => .inr htop
  | seImm | sneImm | seReg | sneReg =>
    refine Host.Outcome.next.inj h ▸ .inr ((s.skipIf_pc _).trans ?_)
    simp [hpc, add_two_add_two]
  | skp =>
    refine of_next_or_raise h hfault fun _ => .inr ((s.skipIf_pc _).trans ?_)
    simp [hpc, add_two_add_two, keyPressed]
  | sknp x =>
    refine of_next_or_raise h hfault fun _ => .inr ((s.skipIf_pc _).trans ?_)
    cases hk : s.work.keys.getLsbD (s.work.reg x).toNat <;> simp [hpc, add_two_add_two, keyPressed, hk]
  | ldKey =>
    refine of_execLdKey h (fun hk => .inr ?_) fun hk => .inr (hpc.trans (if_neg hk).symm)
    simp [leavesPcAsStated, hk, hpc]

/-- Settles O26: the fault path records a fault. -/
theorem pcAfterEachInstruction : Obligations.PcAfterEachInstruction := by
  intro i a s t hpc h hnone
  rcases exec_pc hpc h with ⟨c, n, rfl⟩ | hleaves
  · exact nomatch hnone
  · exact hleaves

end Sys2Proof.Machine
end

section
/-! # The shape of the data (10_state.md R23 to R25, 60_exceptions.md R122)

The shape invariant is cut into the shape of a working state, which a drain and the fault path leave and every instruction keeps,
and the bound of the FIFO, which every enqueue keeps. -/

namespace Sys2Proof.Machine

/-- The shape of a working state: canonical memory, a bounded pc, stack entries that calls pushed, a bounded stack. -/
structure MachineState.Shaped (p : Params) (w : MachineState) : Prop where
  memory : Memory.wf p.font w.mem = true
  pc : w.pc.toNat ≤ 0x10FE
  stackEntries : ∀ a ∈ w.stack, 2 ≤ a.toNat ∧ a.toNat ≤ 0x1000
  stackDepth : ∀ d, p.stackDepth = some d → w.stack.length ≤ d

/-- The FIFO holds at most SIGNAL_FIFO_DEPTH signals. -/
def FifoFits (p : Params) (l : List Signal) : Prop := ∀ d, p.signalFifoDepth = some d → l.length ≤ d

theorem State.shapeInv_iff (s : State) :
    s.shapeInv ↔ s.work.Shaped s.cfg ∧ Memory.wf s.cfg.font s.snap.mem = true ∧
      Memory.wf s.cfg.font s.frameSnap.mem = true ∧ FifoFits s.cfg s.fifo :=
  ⟨fun ⟨hm, hs, hf, hpc, he, hd, hq⟩ => ⟨⟨hm, hpc, he, hd⟩, hs, hf, hq⟩,
    fun ⟨⟨hm, hpc, he, hd⟩, hs, hf, hq⟩ => ⟨hm, hs, hf, hpc, he, hd, hq⟩⟩

/-! ### What leaves the shape of the working state -/

/-- Memory, the pc and the stack alone decide the shape. -/
theorem MachineState.Shaped.congr {p : Params} {w w' : MachineState} (h : w.Shaped p) (hm : w'.mem = w.mem)
    (hpc : w'.pc = w.pc) (hst : w'.stack = w.stack) : w'.Shaped p :=
  ⟨hm ▸ h.memory, hpc ▸ h.pc, hst ▸ h.stackEntries, hst ▸ h.stackDepth⟩

theorem MachineState.Shaped.applySignals {p : Params} {w : MachineState} (h : w.Shaped p) (l : List Signal) :
    (w.applySignals l).Shaped p :=
  h.congr (by rw [MachineState.applySignals_eq]) (by rw [MachineState.applySignals_eq]) (by rw [MachineState.applySignals_eq])

theorem MachineState.Shaped.record_terminate {p : Params} {w : MachineState} (h : w.Shaped p) (r : FaultRecord) :
    (w.record r).terminate.Shaped p :=
  h.congr rfl rfl rfl

/-! ### What an instruction does to the shape of the working state -/

theorem le_memSize_of_blockInRange {a : Word} {n : Nat} (h : blockInRange a (n + 1) = true) :
    a.toNat + (n + 1) ≤ Config.memSize :=
  ((blockInRange_iff a (n + 1)).1 h).resolve_left n.succ_ne_zero

/-- Memory is in canonical form. -/
def CanonicalMemory (font : List Byte) (s : State) : Prop := Memory.wf font s.work.mem = true

/-- A block store checks its range before it writes, and nothing else touches memory. -/
theorem exec_canonicalMemory {i : Instr} {s t : State} (hm : CanonicalMemory s.cfg.font s) (h : exec i s = .next t) :
    CanonicalMemory s.cfg.font t := by
  have hfault : ∀ c n, CanonicalMemory s.cfg.font (s.retreat.takeFault c n) := fun _ _ => hm
  have hkeep : storesMemory i = false → CanonicalMemory s.cfg.font t := fun hs => by
    rw [CanonicalMemory, (exec_keepsOthers h).mem hs]
    exact hm
  cases i with
  | store x =>
    refine of_next_or_raise h hfault fun hin => Memory.writeBytes_wf hm ?_
    rw [MachineState.regsUpTo_length]
    exact le_memSize_of_blockInRange hin
  | bcd x => exact of_next_or_raise h hfault fun hin => Memory.writeBytes_wf hm (le_memSize_of_blockInRange hin)
  | _ => exact hkeep rfl

/-- What an execution can do to the call stack: leave it, push the pc on a stack that is not full, or pop. -/
def PushesOrPops (s t : State) : Prop :=
  t.work.stack = s.work.stack ∨ (¬s.stackFull = true ∧ t.work.stack = s.work.stack ++ [s.work.pc]) ∨
    t.work.stack = s.work.stack.dropLast

theorem exec_pushesOrPops {i : Instr} {s t : State} (h : exec i s = .next t) : PushesOrPops s t := by
  have hfault : ∀ c n, PushesOrPops s (s.retreat.takeFault c n) := fun _ _ => .inl rfl
  have hkeep : usesStack i = false → PushesOrPops s t := fun hs => .inl ((exec_keepsOthers h).stack hs)
  cases i with
  | call => exact of_raise_or_next h hfault fun hfull => .inr (.inl ⟨hfull, rfl⟩)
  | ret => exact of_execRet h hfault fun _ _ => .inr (.inr rfl)
  | _ => exact hkeep rfl

/-- Every target that R23 lists is at most 0x10FE, the greatest one of BNNN. -/
theorem leavesPcAsStated_le {i : Instr} {a : Word} {s t : State} (h : leavesPcAsStated i a s t) (ha : a.toNat ≤ 0xFFE)
    (hstack : ∀ e ∈ s.work.stack, e.toNat ≤ 0x1000) : t.work.pc.toNat ≤ 0x10FE := by
  have htwo : (a + 2#16).toNat ≤ 0x10FE := by bv_omega
  have hfour : (a + 4#16).toNat ≤ 0x10FE := by bv_omega
  cases i with
  | ret => exact (hstack _ (List.mem_of_getLast? h)).trans (by decide)
  | jp | call | jpV0 =>
    simp only [leavesPcAsStated] at h
    rw [h, BitVec.toNat_ofNat]
    omega
  | seImm | sneImm | seReg | sneReg | skp | sknp =>
    simp only [leavesPcAsStated] at h
    rw [h]
    split
    · assumption
    · assumption
  | ldKey =>
    simp only [leavesPcAsStated] at h
    rw [h]
    split
    · omega
    · assumption
  | _ => exact h ▸ htwo

/-- An instruction fetched at an address where a whole word fits leaves the working state in shape. -/
theorem exec_shaped {i : Instr} {s t : State} (hs : s.work.Shaped s.cfg) (hin : blockInRange s.work.pc 2 = true)
    (h : exec i s.advance = .next t) : t.work.Shaped s.cfg := by
  have hfetch : s.work.pc.toNat ≤ 0xFFE := Nat.le_sub_of_add_le (le_memSize_of_blockInRange hin)
  refine ⟨exec_canonicalMemory (s := s.advance) hs.memory h, ?_, ?_, ?_⟩
  · rcases exec_pc (s := s.advance) rfl h with ⟨c, n, rfl⟩ | hpc
    · show (s.work.pc + 2 - 2).toNat ≤ 0x10FE
      bv_omega
    · exact leavesPcAsStated_le hpc hfetch fun e he => (hs.stackEntries e he).2
  · rcases exec_pushesOrPops h with he | ⟨-, he⟩ | he <;> rw [he]
    · exact hs.stackEntries
    · intro a ha
      rcases List.mem_append.1 ha with ha | ha
      · exact hs.stackEntries a ha
      · rw [List.mem_singleton.1 ha]
        show 2 ≤ (s.work.pc + 2).toNat ∧ (s.work.pc + 2).toNat ≤ 0x1000
        bv_omega
    · exact fun a ha => hs.stackEntries a (List.dropLast_subset _ ha)
  · intro d hd
    have hle := hs.stackDepth d hd
    rcases exec_pushesOrPops h with he | ⟨hfull, he⟩ | he <;> rw [he]
    · exact hle
    · have hne : s.work.stack.length ≠ d := fun hlen => hfull ((State.stackFull_iff _).2 (hlen ▸ hd))
      rw [List.length_append]
      exact Nat.lt_of_le_of_ne hle hne
    · rw [List.length_dropLast]
      exact (Nat.sub_le _ _).trans hle

/-! ### The two kinds of step -/

theorem State.enqueue_fifoFits {s : State} (g : Signal) (h : FifoFits s.cfg s.fifo) : FifoFits s.cfg (s.enqueue g).fifo := by
  rcases s.enqueue_cases g with ⟨hfull, he⟩ | ⟨-, he⟩ <;> rw [he]
  · intro d hd
    have hlt : ¬d ≤ s.fifo.length := fun hle => Bool.eq_false_iff.1 hfull (s.fifoFull_iff.2 ⟨d, hd, hle⟩)
    rw [List.length_append]
    exact Nat.lt_of_not_le hlt
  · exact h

/-- The fault path publishes a working state in shape. -/
theorem State.takeFault_shapeInv {s : State} (c : FaultCode) (n : Word) (hs : s.shapeInv) : (s.takeFault c n).shapeInv := by
  obtain ⟨hwork, -, hframe, hfifo⟩ := s.shapeInv_iff.1 hs
  exact (State.shapeInv_iff _).2 ⟨hwork.record_terminate _, hwork.memory, hframe, hfifo⟩

theorem State.drain_shapeInv {s : State} (hs : s.shapeInv) : s.drain.shapeInv := by
  obtain ⟨hwork, hsnap, hframe, -⟩ := s.shapeInv_iff.1 hs
  exact (State.shapeInv_iff _).2 ⟨hwork.applySignals s.fifo, hsnap, hframe, fun d _ => d.zero_le⟩

theorem State.fastStep_shapeInv {s t : State} (hs : s.shapeInv) (h : s.fastStep = .next t) : t.shapeInv := by
  obtain ⟨hwork, hsnap, hframe, hfifo⟩ := s.drain.shapeInv_iff.1 (State.drain_shapeInv hs)
  rcases s.fastStep_cases with
      ⟨-, h'⟩ | ⟨-, -, h'⟩ | ⟨-, -, -, h'⟩ | ⟨-, -, -, c, n, h'⟩ | ⟨-, -, -, hin, i, u, hexec, h', hu, -⟩ <;>
    obtain rfl := Host.Outcome.next.inj (h.symm.trans h')
  · exact ⟨hs.memory, hs.memory, hs.frameMemory, hs.pc, hs.stackEntries, hs.stackDepth, hs.fifoDepth⟩
  · exact State.takeFault_shapeInv _ _ hs
  · exact (State.shapeInv_iff _).2 ⟨hwork, hsnap, hframe, hfifo⟩
  · exact State.takeFault_shapeInv _ _ (State.drain_shapeInv hs)
  · have hpc : s.drain.work.pc = s.work.pc := by
      rw [State.drain_work, MachineState.applySignals_eq]
    have hdone : t.work.Shaped s.cfg := exec_shaped (s := s.drain) hwork (hpc ▸ hin) hexec
    rw [hu]
    exact (State.shapeInv_iff _).2 ⟨hdone, hsnap, hframe, hfifo⟩

theorem State.slowStep_shapeInv {s : State} (hs : s.shapeInv) : s.slowStep.shapeInv := by
  obtain ⟨hwork, hsnap, hframe, hfifo⟩ := s.shapeInv_iff.1 hs
  rw [State.shapeInv_iff, State.slowStep_work, State.slowStep_snap, State.slowStep_cfg]
  refine ⟨hwork, hsnap, ?_, ?_⟩
  · rcases s.slowStep_frameSnap with hf | hf <;> rw [hf]
    · exact hframe
    · exact hsnap
  · obtain ⟨hf | ⟨g, hf, -⟩, -⟩ := s.slowStep_effects <;> rw [hf]
    · exact hfifo
    · exact State.enqueue_fifoFits g hfifo

theorem State.shapeInv.afterTurn {s : State} (hs : s.shapeInv) : s.afterTurn.shapeInv :=
  ⟨hs.memory, hs.snapMemory, hs.frameMemory, hs.pc, hs.stackEntries, hs.stackDepth, hs.fifoDepth⟩

/-- Settles O48: the fast and the slow step each keep the shape invariant, which the turns do not touch. -/
theorem stepKeepsTheShape : Obligations.StepKeepsTheShape := by
  intro s t hs h
  rcases step_cases h with ⟨-, hfast⟩ | ⟨-, rfl⟩
  · exact State.fastStep_shapeInv hs.afterTurn hfast
  · exact State.slowStep_shapeInv hs.afterTurn

end Sys2Proof.Machine
end

section
/-! # The machine after reset and load (10_state.md R39, 70_reset_and_hazards.md R151, R153)

What `State.boot` leaves is said once for an image that fits and once for one that does not; the reset table and the invariants
are read off the two. -/

namespace Sys2Proof.Machine

/-- The working state after reset and the load of an image that fits. -/
def bootWork (p : Params) (image : List Byte) : MachineState :=
  MachineState.reset.setMem (Memory.writeBytes p.font [] Config.imageBase image)

theorem imageFits_iff (image : List Byte) : imageFits image = true ↔ image.length ≤ 3584 := decide_eq_true_iff

theorem State.boot_of_fits (p : Params) {image : List Byte} (h : image.length ≤ 3584) :
    State.boot p image =
      { State.resetWith p with
        work := bootWork p image, snap := bootWork p image, frameSnap := bootWork p image } :=
  if_pos ((imageFits_iff image).2 h)

theorem State.boot_of_oversized (p : Params) {image : List Byte} (h : ¬image.length ≤ 3584) :
    State.boot p image =
      { State.resetWith p with
        work := (MachineState.reset.record ⟨.loadTooLarge, 0x200, saturatedLength image.length⟩).terminate
        loadError := true } :=
  if_neg fun hfits => h ((imageFits_iff image).1 hfits)

theorem State.reset_eq_boot : State.reset = State.boot Config.defaults [] := rfl

/-! ### The reset table -/

theorem Memory.blank_of_lt (font : List Byte) {a : Nat} (h : a < 0x50) : Memory.blank font a = font.getD a 0 := if_pos h

theorem Memory.blank_of_le (font : List Byte) {a : Nat} (h : 0x50 ≤ a) : Memory.blank font a = 0 := if_neg (Nat.not_lt.2 h)

/-- The image in its place, and the unlisted bytes everywhere else. -/
theorem State.boot_readByte (p : Params) {image : List Byte} (h : image.length ≤ 3584) (a : Nat) :
    (State.boot p image).readByte a =
      if 0x200 ≤ a ∧ a < 0x200 + image.length then image.getD (a - 0x200) 0 else Memory.blank p.font a := by
  rw [State.boot_of_fits p h]
  exact Memory.read_writeBytes rfl (Nat.add_le_of_le_sub' (by decide) h)

theorem State.boot_readByte_of_lt (p : Params) {image : List Byte} (h : image.length ≤ 3584) {a : Nat} (ha : a < 0x200) :
    (State.boot p image).readByte a = Memory.blank p.font a := by
  rw [State.boot_readByte p h, if_neg (by omega)]

theorem State.boot_readByte_of_le (p : Params) {image : List Byte} (h : image.length ≤ 3584) {a : Nat}
    (ha : 0x200 + image.length ≤ a) : (State.boot p image).readByte a = 0 := by
  rw [State.boot_readByte p h, if_neg (by omega), Memory.blank_of_le _ (by omega)]

theorem State.boot_readByte_image (p : Params) {image : List Byte} (h : image.length ≤ 3584) {k : Nat}
    (hk : k < image.length) : (State.boot p image).readByte (0x200 + k) = image.getD k 0 := by
  rw [State.boot_readByte p h, if_pos (by omega), Nat.add_sub_cancel_left]

theorem bootWork_reg (p : Params) (image : List Byte) (x : Reg) : (bootWork p image).reg x = 0 :=
  Vector.getElem_replicate x.isLt

/-- Settles O46: memory by `State.boot_readByte`, every other row by computation. -/
theorem bootHoldsTheResetTable : Obligations.BootHoldsTheResetTable := by
  rintro p image hfits s rfl
  refine ⟨fun a ha => ?_, fun a hle hlt => ?_, fun k hk => State.boot_readByte_image p hfits hk,
    fun a hle _ => State.boot_readByte_of_le p hfits hle, ?_⟩
  · rw [State.boot_readByte_of_lt p hfits (by omega), Memory.blank_of_lt _ ha]
  · rw [State.boot_readByte_of_lt p hfits hlt, Memory.blank_of_le _ hle]
  · rw [State.boot_of_fits p hfits]
    exact ⟨bootWork_reg p image, rfl, rfl, rfl, Display.clear_pixel, rfl, rfl, rfl, rfl, rfl, rfl, rfl, rfl, rfl, rfl, rfl,
      rfl, rfl, rfl, rfl⟩

/-! ### The invariants -/

/-- A working state with the reset registers and a canonical memory is in shape. -/
theorem MachineState.shaped_of_reset {p : Params} {w : MachineState} (hm : Memory.wf p.font w.mem = true)
    (hpc : w.pc = MachineState.reset.pc) (hst : w.stack = []) : w.Shaped p where
  memory := hm
  pc := by rw [hpc]; decide
  stackEntries := by simp [hst]
  stackDepth := by simp [hst]

theorem State.boot_shapeInv (p : Params) (image : List Byte) : (State.boot p image).shapeInv := by
  by_cases h : image.length ≤ 3584
  · have hm : Memory.wf p.font (bootWork p image).mem = true :=
      Memory.writeBytes_wf rfl (Nat.add_le_of_le_sub' (by decide) h)
    rw [State.boot_of_fits p h, State.shapeInv_iff]
    exact ⟨MachineState.shaped_of_reset hm rfl rfl, hm, hm, fun d _ => d.zero_le⟩
  · rw [State.boot_of_oversized p h, State.shapeInv_iff]
    exact ⟨MachineState.shaped_of_reset rfl rfl rfl, rfl, rfl, fun d _ => d.zero_le⟩

/-- An active block with no record, an empty FIFO and a fresh slot meets the life invariant. -/
theorem State.lifeInv_of_active {s : State} (hstatus : s.work.status = .active) (hfault : s.work.fault = none)
    (hsnap : s.snap = s.work) (hfifo : s.fifo = []) : s.lifeInv where
  terminatedStops h := nomatch hstatus.symm.trans h
  faultTerminates h := absurd hfault h
  faultPublished h := absurd hfault h
  snapFresh _ _ _ := hsnap
  terminateSent h := by simp [hfifo] at h
  quitStops h := nomatch hstatus.symm.trans h
  snapTerminated h := nomatch hstatus.symm.trans ((congrArg MachineState.status hsnap).symm.trans h)

/-- After a failed load the record stands, the slot is untouched and neither domain ever steps. -/
theorem State.boot_lifeInv_of_oversized (p : Params) {image : List Byte} (h : ¬image.length ≤ 3584) :
    (State.boot p image).lifeInv := by
  rw [State.boot_of_oversized p h]
  exact {
    terminatedStops := fun _ => .inr rfl
    faultTerminates := fun _ => rfl
    faultPublished := nofun
    snapFresh := nofun
    terminateSent := nofun
    quitStops := nofun
    snapTerminated := nofun }

theorem State.boot_lifeInv (p : Params) (image : List Byte) : (State.boot p image).lifeInv := by
  by_cases h : image.length ≤ 3584
  · rw [State.boot_of_fits p h]
    exact State.lifeInv_of_active rfl rfl rfl rfl
  · exact State.boot_lifeInv_of_oversized p h

/-- No tone, no mask sent and an empty FIFO, whatever the image. -/
theorem State.boot_syncInv (p : Params) (image : List Byte) : (State.boot p image).syncInv := by
  by_cases h : image.length ≤ 3584
  · rw [State.boot_of_fits p h]
    exact ⟨fun _ => rfl, fun _ => rfl⟩
  · rw [State.boot_of_oversized p h]
    exact ⟨fun _ => rfl, fun _ => rfl⟩

/-- Settles O51: `State.reset` is the machine booted with no image. -/
theorem bootMeetsTheInvariants : Obligations.BootMeetsTheInvariants := by
  have hboot : ∀ p image, (State.boot p image).shapeInv ∧ (State.boot p image).lifeInv ∧ (State.boot p image).syncInv :=
    fun p image => ⟨State.boot_shapeInv p image, State.boot_lifeInv p image, State.boot_syncInv p image⟩
  exact ⟨State.reset_eq_boot ▸ hboot Config.defaults [], hboot⟩

end Sys2Proof.Machine
end

section
/-! # The frame of a fast step (20_memory.md R54, 60_exceptions.md R123, R148)

The counterpart of `State.slowStep_eq`: each way a fast step can go writes the fast domain's own state, the working state, the
snapshot slot and the FIFO, and leaves the rest. -/

namespace Sys2Proof.Machine

/-- A fast step touches the working state, the FIFO, the fast domain's own state, the snapshot slot and the draws, nothing else. -/
theorem State.fastStep_eq {s t : State} (h : s.fastStep = .next t) :
    t =
      { s with
        work := t.work, fifo := t.fifo, fastPhase := t.fastPhase, fastStopped := t.fastStopped
        snap := t.snap, draws := t.draws } := by
  rcases s.fastStep_cases with ⟨-, h'⟩ | ⟨-, -, h'⟩ | ⟨-, -, -, h'⟩ | ⟨-, -, -, c, n, h'⟩ | ⟨-, -, -, -, i, u, -, h', hu, -⟩ <;>
    obtain rfl := Host.Outcome.next.inj (h.symm.trans h')
  · rfl
  · rfl
  · rfl
  · rfl
  · rw [hu]
    rfl

/-- A fast step leaves the FIFO alone, at a publish and after an overflow, or takes the whole of it, at any other drain. -/
theorem State.fastStep_fifo {s t : State} (h : s.fastStep = .next t) : t.fifo = s.fifo ∨ t.fifo = [] := by
  rcases s.fastStep_cases with ⟨-, h'⟩ | ⟨-, -, h'⟩ | ⟨-, -, -, h'⟩ | ⟨-, -, -, c, n, h'⟩ | ⟨-, -, -, -, i, u, -, h', hu, -⟩ <;>
    obtain rfl := Host.Outcome.next.inj (h.symm.trans h')
  · exact .inl rfl
  · exact .inl rfl
  · exact .inr rfl
  · exact .inr rfl
  · rw [hu]
    exact .inr rfl

/-- Settles O21: the frame of a fast step and what it does to the FIFO, after a turn that touches neither. -/
theorem fastStepLeavesSlowState : Obligations.FastStepLeavesSlowState := by
  intro s t hm h
  have hfast : s.afterTurn.fastStep = .next t := (step_of_fast hm).symm.trans h
  have hfifo := State.fastStep_fifo hfast
  rw [State.fastStep_eq hfast]
  exact ⟨rfl, rfl, rfl, rfl, rfl, rfl, rfl, rfl, rfl, rfl, hfifo⟩

end Sys2Proof.Machine
end

section
/-! # The decoder and the encoder are inverse (30_encoding.md R64, R65, R69, R72)

A word is the format of its own fields, so whatever the decoder reads off a word, the encoder puts back. What the decoder rejects
is said once, group by group, with the reason. -/

namespace Sys2Proof

/-! ### A word is the format of its fields -/

theorem formatA_of_fields {w : Word} {o : Nibble} (ho : opField w = o) : formatA o (nnnField w) = w := by
  subst ho
  exact (BitVec.extractLsb'_append_extractLsb'_eq_extractLsb' (by rfl)).trans BitVec.extractLsb'_eq_self

theorem formatXNN_of_fields {w : Word} {o : Nibble} (ho : opField w = o) : formatXNN o (xField w) (nnField w) = w := by
  subst ho
  unfold formatXNN opField xField nnField
  rw [BitVec.extractLsb'_append_extractLsb'_eq_extractLsb' (by rfl),
    BitVec.extractLsb'_append_extractLsb'_eq_extractLsb' (by rfl)]
  exact BitVec.extractLsb'_eq_self

theorem formatXF_of_fields {w : Word} {o : Nibble} {f : Byte} (ho : opField w = o) (hf : nnField w = f) :
    formatXF o (xField w) f = w := by
  subst hf
  exact formatXNN_of_fields ho

theorem formatXYN_of_fields {w : Word} {o n : Nibble} (ho : opField w = o) (hn : nField w = n) :
    formatXYN o (xField w) (yField w) n = w := by
  subst ho hn
  unfold formatXYN opField xField yField nField
  rw [BitVec.extractLsb'_append_extractLsb'_eq_extractLsb' (by rfl),
    BitVec.extractLsb'_append_extractLsb'_eq_extractLsb' (by rfl),
    BitVec.extractLsb'_append_extractLsb'_eq_extractLsb' (by rfl)]
  exact BitVec.extractLsb'_eq_self

/-- The nibble that reaches the decoder's last arm. -/
theorem nibble_eq_F : ∀ o : Nibble, o ≠ 0x0 → o ≠ 0x1 → o ≠ 0x2 → o ≠ 0x3 → o ≠ 0x4 → o ≠ 0x5 → o ≠ 0x6 → o ≠ 0x7 →
    o ≠ 0x8 → o ≠ 0x9 → o ≠ 0xA → o ≠ 0xB → o ≠ 0xC → o ≠ 0xD → o ≠ 0xE → o = 0xF := by
  intro o
  bv_omega

/-! ### The round trip from the instruction -/

/-- Settles O1: each format gives back the fields it was built from, and they select the instruction's own arm. -/
theorem decodeInvertsEncode : Obligations.DecodeInvertsEncode := by
  intro i
  cases i with
  | cls | ret => rfl
  | jp | call | ldI | jpV0 => simp [encode, decode]
  | seImm | sneImm | ldImm | addImm | rnd => simp [encode, decode]
  | seReg | sneReg | drw => simp [encode, decode]
  | ldReg | orReg | andReg | xorReg | addReg | sub | shr | subn | shl => simp [encode, decode, decodeGroup8]
  | skp | sknp => simp [encode, decode, decodeGroupE]
  | ldFromDt | ldKey | ldToDt | ldToSt | addI | ldFont | bcd | store | load => simp [encode, decode, decodeGroupF]

/-! ### The round trip from the word -/

theorem encode_of_decodeGroup0 {w : Word} {i : Instr} (h : decodeGroup0 w = .ok i) : encode i = w := by
  unfold decodeGroup0 at h
  split at h
  · next hw => cases h; exact hw.symm
  · split at h
    · next hw => cases h; exact hw.symm
    · cases h

theorem encode_of_decodeGroup8 {w : Word} {i : Instr} (ho : opField w = 0x8) (h : decodeGroup8 w = .ok i) : encode i = w := by
  unfold decodeGroup8 at h
  split at h <;> cases h <;> exact formatXYN_of_fields ho ‹_›

theorem encode_of_decodeGroupE {w : Word} {i : Instr} (ho : opField w = 0xE) (h : decodeGroupE w = .ok i) : encode i = w := by
  unfold decodeGroupE at h
  split at h <;> cases h <;> exact formatXF_of_fields ho ‹_›

theorem encode_of_decodeGroupF {w : Word} {i : Instr} (ho : opField w = 0xF) (h : decodeGroupF w = .ok i) : encode i = w := by
  unfold decodeGroupF at h
  split at h <;> cases h <;> exact formatXF_of_fields ho ‹_›

/-- Settles O2: every arm of the decoder reads all the fields of its format, so the encoder rebuilds the word. -/
theorem encodeInvertsDecode : Obligations.EncodeInvertsDecode := by
  intro w i h
  unfold decode at h
  split at h
  case h_1 => exact encode_of_decodeGroup0 h
  case h_6 ho | h_10 ho =>
    split at h
    · next hn => cases h; exact formatXYN_of_fields ho hn
    · cases h
  case h_9 ho => exact encode_of_decodeGroup8 ho h
  case h_15 ho => exact encode_of_decodeGroupE ho h
  case h_16 => exact encode_of_decodeGroupF (by apply nibble_eq_F <;> assumption) h
  case h_14 ho => cases h; exact formatXYN_of_fields ho rfl
  case h_2 ho | h_3 ho | h_11 ho | h_12 ho => cases h; exact formatA_of_fields ho
  case h_4 ho | h_5 ho | h_7 ho | h_8 ho | h_13 ho => cases h; exact formatXNN_of_fields ho

/-! ### The words the decoder rejects -/

/-- An arm that rejects, where `P` says why. -/
theorem reject_iff {P : Prop} {e : DecodeError} (hP : P) :
    (.error .unknownOpcode : Except DecodeError Instr) = .error e ↔ e = .unknownOpcode ∧ P := by
  rw [Except.error.injEq, and_iff_left hP, eq_comm]

theorem decodeGroup0_error_iff {w : Word} {e : DecodeError} :
    decodeGroup0 w = .error e ↔ e = .unknownOpcode ∧ w ≠ 0x00E0 ∧ w ≠ 0x00EE := by
  unfold decodeGroup0
  split
  · next hw => simp [hw]
  · next hcls =>
    split
    · next hw => simp [hw]
    · next hret => exact reject_iff ⟨hcls, hret⟩

theorem decodeGroup8_error_iff {w : Word} {e : DecodeError} :
    decodeGroup8 w = .error e ↔ e = .unknownOpcode ∧ nField w ∈ [0x8#4, 0x9#4, 0xA#4, 0xB#4, 0xC#4, 0xD#4, 0xF#4] := by
  unfold decodeGroup8
  generalize nField w = n
  split
  case h_10 =>
    refine reject_iff ?_
    revert n
    decide
  all_goals simp

theorem decodeGroupE_error_iff {w : Word} {e : DecodeError} :
    decodeGroupE w = .error e ↔ e = .unknownOpcode ∧ nnField w ∉ [0x9E#8, 0xA1#8] := by
  unfold decodeGroupE
  split
  case h_3 => exact reject_iff (by simp_all)
  all_goals next hn => simp [hn]

theorem decodeGroupF_error_iff {w : Word} {e : DecodeError} :
    decodeGroupF w = .error e ↔
      e = .unknownOpcode ∧ nnField w ∉ [0x07#8, 0x0A#8, 0x15#8, 0x18#8, 0x1E#8, 0x29#8, 0x33#8, 0x55#8, 0x65#8] := by
  unfold decodeGroupF
  split
  case h_10 => exact reject_iff (by simp_all)
  all_goals next hn => simp [hn]

/-- The words R72 lists by primary nibble. -/
def unlistedWord (w : Word) : Prop :=
  (opField w = 0x0 ∧ w ≠ 0x00E0 ∧ w ≠ 0x00EE) ∨
  (opField w = 0x5 ∧ nField w ≠ 0) ∨
  (opField w = 0x8 ∧ nField w ∈ [0x8#4, 0x9#4, 0xA#4, 0xB#4, 0xC#4, 0xD#4, 0xF#4]) ∨
  (opField w = 0x9 ∧ nField w ≠ 0) ∨
  (opField w = 0xE ∧ nnField w ∉ [0x9E#8, 0xA1#8]) ∨
  (opField w = 0xF ∧ nnField w ∉ [0x07#8, 0x0A#8, 0x15#8, 0x18#8, 0x1E#8, 0x29#8, 0x33#8, 0x55#8, 0x65#8])

/-- The decoder rejects exactly the unlisted words, and for one reason. -/
theorem decode_error_iff {w : Word} {e : DecodeError} :
    decode w = .error e ↔ e = .unknownOpcode ∧ unlistedWord w := by
  unfold decode unlistedWord
  split
  case h_1 ho => simp [ho, decodeGroup0_error_iff]
  case h_6 ho | h_10 ho =>
    split
    · next hn => simp [ho, hn]
    · next hn => exact reject_iff (by simp [ho, hn])
  case h_9 ho => simp [ho, decodeGroup8_error_iff]
  case h_15 ho => simp [ho, decodeGroupE_error_iff]
  case h_16 =>
    have ho : opField w = 0xF := by apply nibble_eq_F <;> assumption
    simp [ho, decodeGroupF_error_iff]
  all_goals next ho => simp [ho]

/-- Settles O4: `decode_error_iff` holds for every reason, and UnknownOpcode is the only one. -/
theorem unknownWordsAreTheListedOnes : Obligations.UnknownWordsAreTheListedOnes :=
  fun _ => ⟨decode_error_iff.trans (and_iff_right rfl), fun _ h => (decode_error_iff.mp h).1⟩

/-! ### The example words -/

/-- Settles O3: each example word is the word of its instruction, and decode inverts encode. -/
theorem exampleWordsDecode : Obligations.ExampleWordsDecode :=
  ⟨decodeInvertsEncode (.shr 1 2), decodeInvertsEncode (.bcd 1), decodeInvertsEncode .ret, decodeInvertsEncode (.call 0x300),
    decodeInvertsEncode (.seImm 3 0x42), decodeInvertsEncode (.sneReg 1 2), decodeInvertsEncode (.drw 0xA 0xB 5),
    decodeInvertsEncode (.addI 3)⟩

end Sys2Proof
end

section
/-! # Control flow (40_control_flow.md R75 to R82)

A jump and a skip are one write of the pc; a call and a return are one write of the pc and one of the stack, or the fault path.
Each is said once of the kind of outcome, and an instruction is settled by naming its outcome. -/

namespace Sys2Proof.Machine

/-! ### The Encoding line of a rule -/

/-- The word of an instruction is what `encode` gives. -/
theorem hasWord_encode (i : Instr) : hasWord i (encode i) := ⟨rfl, decodeInvertsEncode i⟩

/-! ### What each kind of outcome leaves -/

theorem leavesPc_of_jump {i : Instr} {s : State} {a : Word} (h : exec i s = .next (s.jump a)) : leavesPc i s a :=
  ⟨s.jump a, h, rfl, rfl, fun _ => rfl⟩

theorem leavesPc_of_skipIf {i : Instr} {s : State} {p : Prop} [Decidable p] (h : exec i s = .next (s.skipIf p)) :
    leavesPc i s (if p then s.work.pc + 2 else s.work.pc) := by
  rw [State.skipIf_eq] at h
  simpa only [decide_eq_true_eq] using leavesPc_of_jump h

theorem faultsWith_of_raise {i : Instr} {s : State} {code : FaultCode} {info : Word} (h : exec i s = s.raise code info) :
    faultsWith i s code info :=
  ⟨s.retreat.takeFault code info, h, rfl, rfl, fun _ => rfl⟩

/-! ### Jumps and skips -/

/-- Settles O31: both instructions are a jump; the zero extensions of R76 add up as numbers. -/
theorem jumpsOverwriteThePc : Obligations.JumpsOverwriteThePc := by
  intro nnn s
  have hjp : exec (.jp nnn) s = .next (s.jump (BitVec.ofNat 16 nnn.toNat)) := zext16_addr nnn ▸ rfl
  have hjpV0 : exec (.jpV0 nnn) s = .next (s.jump (BitVec.ofNat 16 (nnn.toNat + (s.work.reg 0).toNat))) :=
    zext16_add_zext16 nnn (s.work.reg 0) ▸ rfl
  exact ⟨hasWord_encode (.jp nnn), hasWord_encode (.jpV0 nnn), leavesPc_of_jump hjp, leavesPc_of_jump hjpV0⟩

/-- Settles O35: all four instructions are a skip under their comparison. -/
theorem skipsOnRegisters : Obligations.SkipsOnRegisters := by
  intro x y nn s
  exact ⟨hasWord_encode (.seImm x nn), hasWord_encode (.sneImm x nn), hasWord_encode (.seReg x y),
    hasWord_encode (.sneReg x y), leavesPc_of_skipIf rfl, leavesPc_of_skipIf rfl, leavesPc_of_skipIf rfl, leavesPc_of_skipIf rfl⟩

/-! ### Calls and returns -/

theorem exec_call_of_not_full (nnn : Addr) {s : State} (h : ¬s.stackFull = true) :
    exec (.call nnn) s = .next ((s.push s.work.pc).jump (zext16 nnn)) := if_neg h

theorem exec_call_of_full (nnn : Addr) {s : State} (h : s.stackFull = true) :
    exec (.call nnn) s = s.raise .stackOverflow (depthInfo s.work.stack.length) := if_pos h

theorem exec_ret_of_top {s : State} {a : Word} (h : s.top = some a) : exec .ret s = .next (s.popped.jump a) := by
  rw [exec, execRet, h]

theorem exec_ret_of_top_none {s : State} (h : s.top = none) : exec .ret s = s.raise .stackUnderflow 0 := by
  rw [exec, execRet, h]

theorem State.top_of_stack {s : State} {l : List Word} {a : Word} (h : s.work.stack = l ++ [a]) : s.top = some a := by
  rw [State.top, h, List.getLast?_concat]

theorem State.popped_of_stack {s : State} {l : List Word} {a : Word} (h : s.work.stack = l ++ [a]) :
    s.popped.work.stack = l := by
  rw [State.popped_work, MachineState.setStack_stack, h, List.dropLast_concat]

/-- Settles O32: whether the stack is full (R25) decides between the push and the fault path. -/
theorem callPushesTheReturnAddress : Obligations.CallPushesTheReturnAddress := by
  intro nnn s
  refine ⟨hasWord_encode (.call nnn), fun hroom => ?_, fun d hdepth hlen => ?_⟩
  · have hexec := exec_call_of_not_full nnn (mt s.stackFull_iff.mp hroom)
    exact ⟨_, hexec, zext16_addr nnn, rfl, rfl, fun _ => rfl⟩
  · subst hlen
    have hexec := exec_call_of_full nnn (s.stackFull_iff.mpr hdepth)
    exact ⟨_, fun hfits => if_pos hfits, faultsWith_of_raise hexec⟩

/-- Settles O33: whether the stack has a last entry decides between the pop and the fault path. -/
theorem returnPopsThePc : Obligations.ReturnPopsThePc := by
  refine ⟨hasWord_encode .ret, fun s => ⟨fun l a hstack => ?_, fun hempty => ?_⟩⟩
  · have hexec := exec_ret_of_top (State.top_of_stack hstack)
    exact ⟨_, hexec, rfl, State.popped_of_stack hstack, rfl, fun _ => rfl⟩
  · exact faultsWith_of_raise (exec_ret_of_top_none (s.top_eq_none.mpr hempty))

/-- A call that records no fault has pushed the return address. -/
theorem exec_call_stack {nnn : Addr} {s t : State} (h : exec (.call nnn) s = .next t) (hnone : t.work.fault = none) :
    t.work.stack = s.work.stack ++ [s.work.pc] :=
  of_raise_or_next (P := fun v => v.work.fault = none → v.work.stack = s.work.stack ++ [s.work.pc]) h
    (fun _ _ => nofun) (fun _ _ => rfl) hnone

/-- Settles O34: the return pops what the call pushed. -/
theorem callThenReturnIsNetZero : Obligations.CallThenReturnIsNetZero := by
  intro nnn s t u hcall hnone hsame
  obtain ⟨-, hret⟩ := returnPopsThePc
  exact (hret u).left s.work.stack s.work.pc (hsame.trans (exec_call_stack hcall hnone))

end Sys2Proof.Machine
end

section
/-! # Registers, constants and the ALU (41_register_alu.md R83 to R94)

An instruction without a flag is one write of a register. One with a flag is `State.writeResultAndFlag`, whose outcome is said once
for every x and every VF_ALIAS_ORDER. What is left of each rule is that its bit-vector operation is the stated arithmetic. -/

namespace Sys2Proof.Machine

/-! ### What a write of one register leaves -/

theorem writesReg_of_setReg {i : Instr} {s : State} {x : Reg} {b : Byte}
    (h : exec i s = .next (s.setWork (s.work.setReg x b))) : writesReg i s x b :=
  ⟨_, h, MachineState.reg_setReg_self _ _ _, fun _ hy => MachineState.reg_setReg_of_ne _ _ hy, rfl, fun _ => rfl⟩

/-! ### What a write of a result and a flag leaves (R85) -/

theorem State.writeResultAndFlag_vf_of_flagLast {s : State} (r : Byte) (f : Bool) (h : s.cfg.vfAliasOrder = .flagLast) :
    s.writeResultAndFlag vf r f = s.setWork (s.work.setReg vf (flagByte f)) := by
  rw [State.writeResultAndFlag_vf, State.afterAlias, State.aliasedVf, h]

theorem State.writeResultAndFlag_vf_of_resultLast {s : State} (r : Byte) (f : Bool) (h : s.cfg.vfAliasOrder = .resultLast) :
    s.writeResultAndFlag vf r f = s.setWork (s.work.setReg vf r) := by
  rw [State.writeResultAndFlag_vf, State.afterAlias, State.aliasedVf, h]

theorem State.writeResultAndFlag_vf_reg (s : State) (r : Byte) (f : Bool) :
    (s.writeResultAndFlag vf r f).work.reg vf = s.aliasedVf r f := by
  rw [State.writeResultAndFlag_vf]
  exact MachineState.reg_setReg_self _ _ _

/-- Under Either, bit 0 of the next draw chooses. -/
theorem State.aliasedVf_of_either {s : State} (q : Supply Byte) (r : Byte) (f : Bool) (h : s.cfg.vfAliasOrder = .either) :
    State.aliasedVf { s with draws := q } r f = if (nextValue Config.freeByte q).getLsbD 0 then flagByte f else r := by
  rw [State.aliasedVf, h, State.drawn]

/-- Under Either, each of the result and the flag is what VF gets for some draw. -/
theorem State.exists_draws_aliasedVf {s : State} {r b : Byte} {f : Bool} (h : s.cfg.vfAliasOrder = .either)
    (hb : b = r ∨ b = flagByte f) : ∃ q, State.aliasedVf { s with draws := q } r f = b := by
  rcases hb with rfl | rfl
  · exact ⟨⟨[0], 0⟩, State.aliasedVf_of_either _ _ _ h⟩
  · exact ⟨⟨[1], 0⟩, State.aliasedVf_of_either _ _ _ h⟩

theorem State.writeResultAndFlag_onlyRegsAndDraws (s : State) (x : Reg) (r : Byte) (f : Bool) :
    onlyRegsAndDraws s (s.writeResultAndFlag x r f) := by
  have heq := s.writeResultAndFlag_eq x r f
  exact ⟨heq, sameBytes_of_mem (by rw [heq]) (by rw [heq])⟩

/-- An instruction that writes a result and a flag, whatever it draws, does so as R85 says. -/
theorem writesResultAndFlag_of_exec {i : Instr} {s : State} {x : Reg} {r : Byte} {f : Bool}
    (h : ∀ q, exec i { s with draws := q } = .next (State.writeResultAndFlag { s with draws := q } x r f)) :
    writesResultAndFlag i s x r (flagByte f) := by
  have hexec : exec i s = .next (s.writeResultAndFlag x r f) := h s.draws
  refine ⟨fun hx => ?_, fun hx => ?_⟩
  · rw [State.writeResultAndFlag_of_ne _ _ _ hx] at hexec
    have hresult := (MachineState.reg_setReg_of_ne (s.work.setReg x r) (flagByte f) hx).trans
      (MachineState.reg_setReg_self s.work x r)
    have hothers : ∀ y, y ≠ x → y ≠ vf → ((s.work.setReg x r).setReg vf (flagByte f)).reg y = s.work.reg y :=
      fun _ hy hf => (MachineState.reg_setReg_of_ne _ _ hf).trans (MachineState.reg_setReg_of_ne _ _ hy)
    exact ⟨_, hexec, hresult, MachineState.reg_setReg_self _ _ _, hothers, rfl, fun _ => rfl⟩
  · subst hx
    refine ⟨fun horder => ?_, fun horder => ?_, fun horder => ⟨⟨_, hexec, ?_, ?_, ?_⟩, fun b hb => ?_⟩⟩
    · exact writesReg_of_setReg (hexec.trans (congrArg _ (State.writeResultAndFlag_vf_of_flagLast r f horder)))
    · exact writesReg_of_setReg (hexec.trans (congrArg _ (State.writeResultAndFlag_vf_of_resultLast r f horder)))
    · rw [State.writeResultAndFlag_vf_reg]
      exact (s.aliasedVf_cases r f).symm
    · exact fun _ hy => s.writeResultAndFlag_reg_of_ne r f hy hy
    · exact s.writeResultAndFlag_onlyRegsAndDraws vf r f
    · obtain ⟨q, hq⟩ := State.exists_draws_aliasedVf horder hb
      exact ⟨q, _, h q, (State.writeResultAndFlag_vf_reg _ r f).trans hq⟩

/-! ### The results and the flags as numbers -/

theorem ofNat_toNat_add_mod (a b : Byte) : BitVec.ofNat 8 ((a.toNat + b.toNat) % 256) = a + b :=
  BitVec.eq_of_toNat_eq (by simp)

theorem ofNat_toNat_sub_mod (a b : Byte) : BitVec.ofNat 8 ((256 + a.toNat - b.toNat) % 256) = a - b := by
  bv_omega

theorem ofNat_toNat_half (a : Byte) : BitVec.ofNat 8 (a.toNat / 2) = a >>> 1 := by
  bv_omega

theorem ofNat_toNat_double_mod (a : Byte) : BitVec.ofNat 8 (a.toNat * 2 % 256) = a <<< 1 := by
  bv_omega

theorem flagByte_decide (p : Prop) [Decidable p] : flagByte (decide p) = if p then 1 else 0 := by
  by_cases hp : p <;> simp [flagByte, hp]

theorem shiftedOutRight_eq (a : Byte) : shiftedOutRight a = decide (a.toNat % 2 = 1) := by
  rw [shiftedOutRight, BitVec.getLsbD, Nat.testBit_zero]

theorem shiftedOutLeft_eq (a : Byte) : shiftedOutLeft a = decide (128 ≤ a.toNat) :=
  BitVec.msb_eq_decide a

/-! ### The instructions -/

/-- Settles O27: each is one write of Vx. -/
theorem constantLoadAndAdd : Obligations.ConstantLoadAndAdd := by
  intro x nn s
  rw [ofNat_toNat_add_mod]
  exact ⟨hasWord_encode (.ldImm x nn), writesReg_of_setReg rfl, hasWord_encode (.addImm x nn), writesReg_of_setReg rfl⟩

/-- Settles O28: each is one write of Vx. -/
theorem copyAndBitwise : Obligations.CopyAndBitwise := by
  intro x y s
  exact ⟨hasWord_encode (.ldReg x y), hasWord_encode (.orReg x y), hasWord_encode (.andReg x y), hasWord_encode (.xorReg x y),
    writesReg_of_setReg rfl, writesReg_of_setReg rfl, writesReg_of_setReg rfl, writesReg_of_setReg rfl⟩

/-- Settles O29: each is one write of a result and a flag, and both are the stated numbers. -/
theorem flagOperations : Obligations.FlagOperations := by
  intro x y s
  simp only [ofNat_toNat_add_mod, ofNat_toNat_sub_mod, ofNat_toNat_half, ofNat_toNat_double_mod, ← flagByte_decide,
    ← shiftedOutRight_eq, ← shiftedOutLeft_eq]
  refine ⟨hasWord_encode (.addReg x y), hasWord_encode (.sub x y), hasWord_encode (.shr x y), hasWord_encode (.subn x y),
    hasWord_encode (.shl x y), ?_, ?_, ?_, ?_⟩
  · exact writesResultAndFlag_of_exec fun _ => rfl
  · exact writesResultAndFlag_of_exec fun _ => rfl
  · exact writesResultAndFlag_of_exec fun _ => rfl
  · rintro src rfl
    exact ⟨writesResultAndFlag_of_exec fun _ => rfl, writesResultAndFlag_of_exec fun _ => rfl⟩

end Sys2Proof.Machine
end

section
/-! # Memory and the index register (42_memory_index.md R95 to R100)

ANNN, FX1E and FX29 are one write of I. FX33, FX55 and FX65 share their guard, the block I .. I+n within 0xFFF, so what the guard
decides is said once; what is left of each is a block store or a block load. -/

namespace Sys2Proof.Machine

/-! ### Writes of I -/

theorem exists_onlyI_of_setI {i : Instr} {s : State} {a : Word} (h : exec i s = .next (s.setWork (s.work.setI a))) :
    ∃ t, exec i s = .next t ∧ t.work.i = a ∧ onlyI s t :=
  ⟨_, h, rfl, rfl, fun _ => rfl⟩

theorem add_zext16_byte (a : Word) (b : Byte) : a + zext16 b = BitVec.ofNat 16 (a.toNat + b.toNat) := by
  rw [zext16_byte, BitVec.ofNat_add, a.ofNat_toNat, BitVec.setWidth_eq]

theorem fontAddress_eq (d : Byte) : fontAddress d = BitVec.ofNat 16 (5 * d.toNat) := by
  rw [fontAddress, zext16_byte, BitVec.ofNat_mul]
  rfl

theorem isIndex_iff (b : Byte) : isIndex b = true ↔ b.toNat ≤ 0xF := decide_eq_true_iff

theorem exec_addI_of_le {x : Reg} {s : State} (h : s.work.i.toNat + (s.work.reg x).toNat ≤ 0xFFFF) :
    exec (.addI x) s = .next (s.setWork (s.work.setI (BitVec.ofNat 16 (s.work.i.toNat + (s.work.reg x).toNat)))) :=
  add_zext16_byte .. ▸ if_neg (Nat.not_lt.mpr h)

theorem exec_addI_of_lt {x : Reg} {s : State} (h : 0xFFFF < s.work.i.toNat + (s.work.reg x).toNat) :
    exec (.addI x) s = s.raise .indexOverflow s.work.i := if_pos h

theorem exec_ldFont_of_le {x : Reg} {s : State} (h : (s.work.reg x).toNat ≤ 0xF) :
    exec (.ldFont x) s = .next (s.setWork (s.work.setI (BitVec.ofNat 16 (5 * (s.work.reg x).toNat)))) :=
  fontAddress_eq _ ▸ if_pos ((isIndex_iff _).mpr h)

theorem exec_ldFont_of_lt {x : Reg} {s : State} (h : 0xF < (s.work.reg x).toNat) :
    exec (.ldFont x) s = s.raise .fontDigitOutOfRange (BitVec.ofNat 16 (s.work.reg x).toNat) :=
  zext16_byte _ ▸ if_neg (mt (isIndex_iff _).mp (Nat.not_le.mpr h))

/-- Settles O38: each completes as one write of I, and a guard of FX1E or FX29 that fails is the fault path. -/
theorem indexOperations : Obligations.IndexOperations := by
  refine ⟨fun nnn s => ⟨hasWord_encode (.ldI nnn), ?_⟩, fun x s => ⟨hasWord_encode (.addI x), hasWord_encode (.ldFont x), ?_⟩⟩
  · exact exists_onlyI_of_setI (zext16_addr nnn ▸ rfl)
  · exact ⟨fun h => exists_onlyI_of_setI (exec_addI_of_le h), fun h => faultsWith_of_raise (exec_addI_of_lt h),
      fun h => exists_onlyI_of_setI (exec_ldFont_of_le h), fun h => faultsWith_of_raise (exec_ldFont_of_lt h)⟩

/-! ### The guard of a block access (20_memory.md R44) -/

theorem blockInRange_succ_iff (a : Word) (n : Nat) : blockInRange a (n + 1) = true ↔ a.toNat + n ≤ 0xFFF := by
  rw [blockInRange_iff]
  omega

/-- The instruction is a block access to I .. I+n: it leaves `u` if the block is in range, and otherwise raises
MemoryOutOfRange. -/
def accessesBlock (i : Instr) (s : State) (n : Nat) (u : State) : Prop :=
  exec i s = if blockInRange s.work.i (n + 1) then .next u else s.raise .memoryOutOfRange (firstBeyond s.work.i)

theorem exec_of_accessesBlock {i : Instr} {s u : State} {n : Nat} (h : accessesBlock i s n u)
    (hin : s.work.i.toNat + n ≤ 0xFFF) : exec i s = .next u :=
  h.trans (if_pos ((blockInRange_succ_iff _ n).mpr hin))

theorem faultsWith_of_accessesBlock {i : Instr} {s u : State} {n : Nat} (h : accessesBlock i s n u)
    (hout : 0xFFF < s.work.i.toNat + n) :
    faultsWith i s .memoryOutOfRange (BitVec.ofNat 16 (max s.work.i.toNat 0x1000)) :=
  faultsWith_of_raise
    (firstBeyond_eq _ ▸ h.trans (if_neg (mt (blockInRange_succ_iff _ n).mp (Nat.not_le.mpr hout))))

theorem store_accessesBlock (x : Reg) (s : State) :
    accessesBlock (.store x) s x.toNat (s.storeBytes s.work.i.toNat (s.work.regsUpTo x)) := rfl

theorem load_accessesBlock (x : Reg) (s : State) :
    accessesBlock (.load x) s x.toNat (s.setWork (s.work.setRegs (s.readBytes s.work.i.toNat (x.toNat + 1)))) := rfl

theorem bcd_accessesBlock (x : Reg) (s : State) :
    accessesBlock (.bcd x) s 2 (s.storeBytes s.work.i.toNat (bcdDigits (s.work.reg x))) := rfl

/-! ### A block store: FX55 and FX33 -/

section
variable {s : State} {a : Nat} {bs : List Byte} (hm : Memory.wf s.cfg.font s.work.mem = true)
  (ha : a + bs.length ≤ Config.memSize)
include hm ha

theorem State.storeBytes_readByte_inside {k : Nat} (hk : k < bs.length) :
    (s.storeBytes a bs).readByte (a + k) = bs.getD k 0 := by
  rw [s.storeBytes_readByte bs hm ha, if_pos ⟨Nat.le_add_right a k, Nat.add_lt_add_left hk a⟩, Nat.add_sub_cancel_left]

theorem State.storeBytes_sameBytesOutside : sameBytesOutside a bs.length s (s.storeBytes a bs) := by
  intro b hb
  rw [s.storeBytes_readByte bs hm ha, if_neg (by omega)]

end

/-- Settles O39: the bytes of the block store are V0 to Vx. -/
theorem storeWritesRegistersAtI : Obligations.StoreWritesRegistersAtI := by
  intro x s hm
  have hblock := store_accessesBlock x s
  have hlen := s.work.regsUpTo_length x
  refine ⟨hasWord_encode (.store x), fun hin => ?_, faultsWith_of_accessesBlock hblock⟩
  have ha : s.work.i.toNat + (s.work.regsUpTo x).length ≤ Config.memSize := hlen ▸ Nat.succ_le_succ hin
  refine ⟨_, exec_of_accessesBlock hblock hin, fun k hk => ?_, hlen ▸ State.storeBytes_sameBytesOutside hm ha, rfl⟩
  rw [State.storeBytes_readByte_inside hm ha (hlen ▸ Nat.lt_succ_of_le hk), MachineState.regsUpTo_getD _ _ _ hk]

/-- Settles O41: the bytes of the block store are the three digits. -/
theorem bcdWritesThreeDigits : Obligations.BcdWritesThreeDigits := by
  intro x s hm
  have hblock := bcd_accessesBlock x s
  refine ⟨hasWord_encode (.bcd x), fun hin => ?_, faultsWith_of_accessesBlock hblock⟩
  have ha : s.work.i.toNat + (bcdDigits (s.work.reg x)).length ≤ Config.memSize := Nat.succ_le_succ hin
  have hdigit : ∀ k < 3, (s.storeBytes s.work.i.toNat (bcdDigits (s.work.reg x))).readByte (s.work.i.toNat + k) =
      (bcdDigits (s.work.reg x)).getD k 0 := fun _ hk => State.storeBytes_readByte_inside hm ha hk
  refine ⟨_, exec_of_accessesBlock hblock hin, ?_, ?_, ?_, State.storeBytes_sameBytesOutside hm ha, rfl⟩
  · exact congrArg BitVec.toNat (hdigit 0 (by decide))
  · exact congrArg BitVec.toNat (hdigit 1 (by decide))
  · exact congrArg BitVec.toNat (hdigit 2 (by decide))

/-! ### A block load: FX65 -/

/-- V0 to Vn come from the block at `a`, the registers above are as before. -/
theorem State.setRegs_readBytes_reg (s : State) (a n : Nat) (k : Reg) :
    (s.work.setRegs (s.readBytes a (n + 1))).reg k =
      if k.toNat ≤ n then s.readByte (a + k.toNat) else s.work.reg k := by
  split
  · next hk => simp [MachineState.setRegs_reg, State.readBytes, Nat.lt_succ_of_le hk]
  · next hk => exact MachineState.reg_setRegs_of_le _ (State.readBytes_length .. ▸ Nat.lt_of_not_le hk)

/-- Settles O40: the registers written are those of the block load. -/
theorem loadReadsRegistersAtI : Obligations.LoadReadsRegistersAtI := by
  intro x s
  have hblock := load_accessesBlock x s
  refine ⟨hasWord_encode (.load x), fun hin => ?_, faultsWith_of_accessesBlock hblock⟩
  exact ⟨_, exec_of_accessesBlock hblock hin, s.setRegs_readBytes_reg _ _, rfl, fun _ => rfl⟩

/-! ### A store and then a load -/

/-- An instruction that leaves no fault has not taken the fault path. -/
theorem not_faultsWith_of_fault_none {i : Instr} {s t : State} {code : FaultCode} {info : Word} (h : exec i s = .next t)
    (hnone : t.work.fault = none) : ¬faultsWith i s code info := by
  rintro ⟨t', h', hwork, -⟩
  obtain rfl := Host.Outcome.next.inj (h.symm.trans h')
  rw [hwork] at hnone
  exact nomatch hnone

/-- Settles O42: a store that leaves no fault was in range, so the load finds the same block and the stored bytes in it. -/
theorem storeThenLoadRestoresRegisters : Obligations.StoreThenLoadRestoresRegisters := by
  intro x s t u hm hstore hnone hu
  obtain ⟨-, hinside, hbeyond⟩ := storeWritesRegistersAtI x s hm
  have hin : s.work.i.toNat + x.toNat ≤ 0xFFF :=
    Nat.le_of_not_lt fun hout => not_faultsWith_of_fault_none hstore hnone (hbeyond hout)
  obtain ⟨t', hstore', hstored, -, honly⟩ := hinside hin
  obtain rfl := Host.Outcome.next.inj (hstore.symm.trans hstore')
  have hi : u.work.i = s.work.i := by rw [hu, honly]
  have hbytes : sameBytes t u := sameBytes_of_mem (by rw [hu]) (by rw [hu])
  obtain ⟨-, hload, -⟩ := loadReadsRegistersAtI x u
  obtain ⟨v, hexec, hregs, -⟩ := hload (hi ▸ hin)
  refine ⟨v, hexec, fun k hk => ?_⟩
  rw [hregs, if_pos hk, hbytes, hi, hstored k hk]

end Sys2Proof.Machine
end

section
/-! # The display (43_display.md R101 to R103)

CLS is one write of the display, DRW one write of the display and one of VF. What the drawn canvas holds is said in the laws of the
screen; here it is tied to what the two instructions leave. -/

namespace Sys2Proof.Machine

/-! ### 00E0 -/

/-- Settles O43: the display written is the cleared one. -/
theorem clearScreenClearsEveryPixel : Obligations.ClearScreenClearsEveryPixel :=
  ⟨hasWord_encode .cls, fun _ => ⟨_, rfl, fun col row _ _ => Display.clear_pixel col row, rfl, fun _ => rfl⟩⟩

/-! ### DXYN -/

theorem flagByte_eq_one_iff (f : Bool) : flagByte f = 1 ↔ f = true := by
  cases f <;> decide

theorem flagByte_cases (f : Bool) : flagByte f = 1 ∨ flagByte f = 0 := by
  cases f
  · exact .inr rfl
  · exact .inl rfl

/-- The block after a completed DRW: the canvas's display, and its collision flag in VF. -/
def State.drawCanvas (s : State) (c : Canvas) : State := s.setWork ((s.work.setDisp c.disp).setReg vf (flagByte c.collision))

theorem State.drawCanvas_disp (s : State) (c : Canvas) : (s.drawCanvas c).work.disp = c.disp := rfl

theorem State.drawCanvas_vf (s : State) (c : Canvas) : (s.drawCanvas c).work.reg vf = flagByte c.collision :=
  MachineState.reg_setReg_self _ _ _

theorem State.drawCanvas_sameRegsBut (s : State) (c : Canvas) : sameRegsBut vf s (s.drawCanvas c) :=
  fun _ hy => MachineState.reg_setReg_of_ne _ _ hy

theorem State.drawCanvas_onlyDispAndRegs (s : State) (c : Canvas) : onlyDispAndRegs s (s.drawCanvas c) :=
  ⟨rfl, fun _ => rfl⟩

/-- A nonempty sprite is in range exactly if its last byte is. -/
theorem blockInRange_nibble_iff (a : Word) (n : Nibble) :
    blockInRange a n.toNat = true ↔ n = 0 ∨ a.toNat + n.toNat - 1 ≤ 0xFFF := by
  have hn : n = 0 ↔ n.toNat = 0 := BitVec.toNat_inj.symm
  rw [blockInRange_iff, hn]
  omega

theorem exec_drw_of_inRange {x y : Reg} {n : Nibble} {s : State} (h : n = 0 ∨ s.work.i.toNat + n.toNat - 1 ≤ 0xFFF) :
    exec (.drw x y n) s = .next (s.drawCanvas (s.spriteCanvas x y n.toNat)) :=
  if_pos ((blockInRange_nibble_iff _ _).mpr h)

theorem exec_drw_of_beyond {x y : Reg} {n : Nibble} {s : State} (hn : n ≠ 0) (h : 0xFFF < s.work.i.toNat + n.toNat - 1) :
    exec (.drw x y n) s = s.raise .memoryOutOfRange (BitVec.ofNat 16 (max s.work.i.toNat 0x1000)) :=
  firstBeyond_eq _ ▸ if_neg (mt (blockInRange_nibble_iff _ _).mp (not_or.mpr ⟨hn, Nat.not_le.mpr h⟩))

/-- A sprite drawn on a canvas without a collision collides exactly when it covers a pixel of the grid that was set. -/
theorem State.spriteCanvas_collision (s : State) (x y : Reg) (n : Nat) :
    (s.spriteCanvas x y n).collision = true ↔ ∃ col row, col < 64 ∧ row < 32 ∧ s.work.disp.pixel col row = true ∧
      spriteCovers (s.readBytes s.work.i.toNat n) (s.spriteColumn x) (s.spriteRow y) col row := by
  rw [State.spriteCanvas, Canvas.plotRows_collision]
  exact or_iff_right Bool.false_ne_true

/-- Settles O44: a draw in range leaves the sprite's canvas, whose pixels and collision the laws of the screen give; otherwise the
guard raises the fault. -/
theorem drawXorsTheSprite : Obligations.DrawXorsTheSprite := by
  rintro x y n s bytes rfl
  refine ⟨hasWord_encode (.drw x y n), fun hin => ⟨_, exec_drw_of_inRange hin, fun col row hcol hrow => ?_, ?_, ?_,
    s.drawCanvas_sameRegsBut _, s.drawCanvas_onlyDispAndRegs _⟩, fun hn hout => faultsWith_of_raise (exec_drw_of_beyond hn hout)⟩
  · rw [s.drawCanvas_disp]
    exact Canvas.plotRows_pixel _ ⟨s.work.disp, false⟩ _ _ _ _ hcol hrow
  · rw [s.drawCanvas_vf]
    exact flagByte_cases _
  · rw [s.drawCanvas_vf, flagByte_eq_one_iff]
    exact s.spriteCanvas_collision x y n.toNat

end Sys2Proof.Machine
end

section
/-! # Input (44_input.md R104 to R106)

EX9E and EXA1 are a skip under one bit of the key mask, or the fault path. FX0A is a jump back to itself, or one write of a register
with a pressed key; which key that is, is said of `pressedKeys` and carried over by KEY_SELECT. -/

namespace Sys2Proof.Machine

/-! ### Skips on the key mask -/

section
variable {x : Reg} {s : State}

theorem exec_skp_of_le (h : (s.work.reg x).toNat ≤ 0xF) :
    exec (.skp x) s = .next (s.skipIf (s.work.keys.getLsbD (s.work.reg x).toNat = true)) := by
  rw [Bool.decide_eq_true]
  exact if_pos ((isIndex_iff _).mpr h)

theorem exec_sknp_of_le (h : (s.work.reg x).toNat ≤ 0xF) :
    exec (.sknp x) s = .next (s.skipIf (s.work.keys.getLsbD (s.work.reg x).toNat = false)) := by
  rw [Bool.decide_eq_false]
  exact if_pos ((isIndex_iff _).mpr h)

theorem exec_skp_of_lt (h : 0xF < (s.work.reg x).toNat) :
    exec (.skp x) s = s.raise .keyIndexOutOfRange (BitVec.ofNat 16 (s.work.reg x).toNat) :=
  zext16_byte _ ▸ if_neg (mt (isIndex_iff _).mp (Nat.not_le.mpr h))

theorem exec_sknp_of_lt (h : 0xF < (s.work.reg x).toNat) :
    exec (.sknp x) s = s.raise .keyIndexOutOfRange (BitVec.ofNat 16 (s.work.reg x).toNat) :=
  zext16_byte _ ▸ if_neg (mt (isIndex_iff _).mp (Nat.not_le.mpr h))

end

/-- Settles O36: an index up to 0xF makes each a skip on its key's bit, and a larger one the fault path. -/
theorem skipsOnKeys : Obligations.SkipsOnKeys := by
  intro x s
  exact ⟨hasWord_encode (.skp x), hasWord_encode (.sknp x),
    fun h => ⟨leavesPc_of_skipIf (exec_skp_of_le h), leavesPc_of_skipIf (exec_sknp_of_le h)⟩,
    fun h => ⟨faultsWith_of_raise (exec_skp_of_lt h), faultsWith_of_raise (exec_sknp_of_lt h)⟩⟩

/-! ### The pressed keys -/

theorem ne_zero_of_pressed {keys : Word} {k : Nat} (h : keys.getLsbD k = true) : keys ≠ 0 := by
  rintro rfl
  exact Bool.false_ne_true (BitVec.getLsbD_zero.symm.trans h)

/-- The list begins with the least pressed key. -/
theorem pressedKeys_headD {keys : Word} {k : Nat} (hk : k < 16) (hpressed : keys.getLsbD k = true)
    (hleast : ∀ j, j < k → keys.getLsbD j = false) : (pressedKeys keys).headD 0 = BitVec.ofNat 8 k := by
  have hfind : (List.range 16).find? (fun j => keys.getLsbD j) = some k :=
    List.find?_range_eq_some.mpr ⟨hpressed, List.mem_range.mpr hk, fun j hj => by rw [hleast j hj]; rfl⟩
  rw [pressedKeys, List.headD_eq_head?_getD, List.head?_map, List.head?_filter, hfind]
  rfl

theorem pressedKeys_length_le (keys : Word) : (pressedKeys keys).length ≤ 16 := by
  rw [pressedKeys, List.length_map]
  exact List.length_filter_le _ _

/-! ### The selected key, by KEY_SELECT -/

section
variable {s : State}

theorem State.selectedKey_of_lowest (h : s.cfg.keySelect = .lowest) :
    s.selectedKey = (pressedKeys s.work.keys).headD 0 := by
  rw [State.selectedKey, h]

theorem State.selectedKey_of_any (q : Supply Byte) (h : s.cfg.keySelect = .any) :
    State.selectedKey { s with draws := q } =
      (pressedKeys s.work.keys).getD ((nextValue Config.freeByte q).toNat % (pressedKeys s.work.keys).length) 0 := by
  rw [State.selectedKey, h, State.drawn]

/-- Under Any, whatever is drawn, the key selected is a pressed one: the draw is reduced to a place in the list. -/
theorem State.selectedKey_mem (h : s.cfg.keySelect = .any) (hkeys : s.work.keys ≠ 0) :
    s.selectedKey ∈ pressedKeys s.work.keys := by
  have hplace : (nextValue Config.freeByte s.draws).toNat % (pressedKeys s.work.keys).length < (pressedKeys s.work.keys).length :=
    Nat.mod_lt _ (List.length_pos_of_ne_nil (pressedKeys_ne_nil _ hkeys))
  rw [State.selectedKey_of_any s.draws h, List.getD_eq_getElem _ _ hplace]
  exact List.getElem_mem hplace

/-- Under Any, each pressed key is the one selected for some draw: its place in the list. -/
theorem State.exists_draws_selectedKey (h : s.cfg.keySelect = .any) {b : Byte} (hb : b ∈ pressedKeys s.work.keys) :
    ∃ q, State.selectedKey { s with draws := q } = b := by
  obtain ⟨n, hn, rfl⟩ := List.mem_iff_getElem.mp hb
  have hbyte : (BitVec.ofNat 8 n).toNat = n :=
    Nat.mod_eq_of_lt (hn.trans_le ((pressedKeys_length_le _).trans (by decide)))
  refine ⟨⟨[BitVec.ofNat 8 n], 0⟩, ?_⟩
  rw [State.selectedKey_of_any _ h, nextValue_script, hbyte, Nat.mod_eq_of_lt hn, List.getD_eq_getElem _ _ hn]

end

/-! ### FX0A -/

/-- The block after FX0A has stored a key. -/
def State.storeKey (s : State) (x : Reg) : State := s.afterKeySelect.setWork (s.work.setReg x s.selectedKey)

theorem State.storeKey_reg (s : State) (x : Reg) : (s.storeKey x).work.reg x = s.selectedKey :=
  MachineState.reg_setReg_self _ _ _

theorem State.storeKey_sameRegsBut (s : State) (x : Reg) : sameRegsBut x s (s.storeKey x) :=
  fun _ hy => MachineState.reg_setReg_of_ne _ _ hy

theorem State.storeKey_onlyRegsAndDraws (s : State) (x : Reg) : onlyRegsAndDraws s (s.storeKey x) := by
  rw [State.storeKey, State.afterKeySelect_eq]
  exact ⟨rfl, fun _ => rfl⟩

theorem State.storeKey_of_lowest {s : State} (x : Reg) (h : s.cfg.keySelect = .lowest) :
    s.storeKey x = s.setWork (s.work.setReg x ((pressedKeys s.work.keys).headD 0)) := by
  rw [State.storeKey, State.selectedKey_of_lowest h, State.afterKeySelect, h]

theorem exec_ldKey_of_none (x : Reg) {s : State} (h : s.work.keys = 0) :
    exec (.ldKey x) s = .next (s.jump (s.work.pc - 2)) := if_pos h

theorem exec_ldKey_of_pressed (x : Reg) {s : State} (h : s.work.keys ≠ 0) : exec (.ldKey x) s = .next (s.storeKey x) := if_neg h

/-- Settles O37: with no key pressed it is a jump back; otherwise it stores the selected key, which is the head of the list of the
pressed keys under Lowest and any member of it under Any. -/
theorem keyWaitSpinsOrStoresAKey : Obligations.KeyWaitSpinsOrStoresAKey := by
  intro x s
  refine ⟨hasWord_encode (.ldKey x), fun hnone => leavesPc_of_jump (exec_ldKey_of_none x hnone),
    fun hlowest k hk hpressed hleast => ?_, fun hany hkeys => ⟨?_, fun k hk hpressed => ?_⟩⟩
  · have hexec := exec_ldKey_of_pressed x (ne_zero_of_pressed hpressed)
    rw [State.storeKey_of_lowest x hlowest, pressedKeys_headD hk hpressed hleast] at hexec
    exact writesReg_of_setReg hexec
  · obtain ⟨k, hk, hpressed, hkey⟩ := (mem_pressedKeys _ _).mp (State.selectedKey_mem hany hkeys)
    exact ⟨_, k, exec_ldKey_of_pressed x hkeys, hk, hpressed, (s.storeKey_reg x).trans hkey, s.storeKey_sameRegsBut x,
      s.storeKey_onlyRegsAndDraws x⟩
  · obtain ⟨q, hq⟩ := State.exists_draws_selectedKey hany ((mem_pressedKeys _ _).mpr ⟨k, hk, hpressed, rfl⟩)
    exact ⟨q, _, exec_ldKey_of_pressed x hkeys, (State.storeKey_reg _ x).trans hq⟩

end Sys2Proof.Machine
end

section
/-! # Timers and random bytes (45_timers_random.md R107 to R110)

FX07, FX15 and FX18 are one write of Vx, of the delay timer or of the sound timer. CXNN takes one draw and is one write of Vx; as a
script may hold any byte first, the byte drawn is any byte. -/

namespace Sys2Proof.Machine

/-! ### Timer transfers -/

theorem exists_onlyDt_of_setDt {i : Instr} {s : State} {b : Byte} (h : exec i s = .next (s.setWork (s.work.setDt b))) :
    ∃ t, exec i s = .next t ∧ t.work.dt = b ∧ onlyDt s t :=
  ⟨_, h, rfl, rfl, fun _ => rfl⟩

theorem exists_onlySt_of_setSt {i : Instr} {s : State} {b : Byte} (h : exec i s = .next (s.setWork (s.work.setSt b))) :
    ∃ t, exec i s = .next t ∧ t.work.st = b ∧ onlySt s t :=
  ⟨_, h, rfl, rfl, fun _ => rfl⟩

/-- Settles O45: each is one write of its destination. -/
theorem timerTransfers : Obligations.TimerTransfers := by
  intro x s
  exact ⟨hasWord_encode (.ldFromDt x), hasWord_encode (.ldToDt x), hasWord_encode (.ldToSt x), writesReg_of_setReg rfl,
    exists_onlyDt_of_setDt rfl, exists_onlySt_of_setSt rfl⟩

/-! ### CXNN -/

/-- The block after CXNN has stored its masked draw. -/
def State.storeDraw (s : State) (x : Reg) (nn : Byte) : State := s.afterDraw.setWork (s.work.setReg x (s.drawn &&& nn))

theorem exec_rnd (x : Reg) (nn : Byte) (s : State) : exec (.rnd x nn) s = .next (s.storeDraw x nn) := rfl

theorem State.storeDraw_reg (s : State) (x : Reg) (nn : Byte) : (s.storeDraw x nn).work.reg x = s.drawn &&& nn :=
  MachineState.reg_setReg_self _ _ _

theorem State.storeDraw_sameRegsBut (s : State) (x : Reg) (nn : Byte) : sameRegsBut x s (s.storeDraw x nn) :=
  fun _ hy => MachineState.reg_setReg_of_ne _ _ hy

theorem State.storeDraw_onlyRegsAndDraws (s : State) (x : Reg) (nn : Byte) : onlyRegsAndDraws s (s.storeDraw x nn) :=
  ⟨rfl, fun _ => rfl⟩

/-- Every byte is the one drawn from some supply: from a script that begins with it. -/
theorem State.exists_draws_drawn (s : State) (b : Byte) : ∃ q, State.drawn { s with draws := q } = b :=
  ⟨⟨[b], 0⟩, nextValue_script _ _ _ _⟩

/-- Settles O30: CXNN stores its masked draw, and a supply can be chosen for any draw. -/
theorem randomIsAMaskedFreeByte : Obligations.RandomIsAMaskedFreeByte := by
  intro x nn s
  refine ⟨hasWord_encode (.rnd x nn), ⟨s.drawn, _, exec_rnd x nn s, s.storeDraw_reg x nn, s.storeDraw_sameRegsBut x nn,
    s.storeDraw_onlyRegsAndDraws x nn⟩, fun b => ?_⟩
  obtain ⟨q, hq⟩ := s.exists_draws_drawn b
  exact ⟨q, _, exec_rnd x nn _, (State.storeDraw_reg _ x nn).trans (congrArg (· &&& nn) hq)⟩

end Sys2Proof.Machine
end

section
/-! # Signals and the signal FIFO (60_exceptions.md R121 to R127)

What one signal does to the working state is read off its case; what a drain does is said field by field, by induction on the
signals applied. -/

namespace Sys2Proof.Machine

/-! ### The 18-bit entry -/

theorem Signal.toEntry_kind (ignored : Word) (g : Signal) : (g.toEntry ignored).extractLsb' 16 2 = g.kind := by
  cases g <;> exact BitVec.extractLsb'_append_eq_left

theorem Signal.ofEntry_toEntry (ignored : Word) (g : Signal) : Signal.ofEntry (g.toEntry ignored) = g := by
  cases g with
  | setKeys m =>
    rw [Signal.ofEntry, Signal.toEntry_kind, if_pos (by rfl)]
    exact congrArg _ BitVec.extractLsb'_append_eq_right
  | decrementDelayTimer | decrementSoundTimer | terminate =>
    rw [Signal.ofEntry, Signal.toEntry_kind]
    rfl

/-- Settles O5: an entry keeps its kind in bits 17:16, which selects the signal it reads back as. -/
theorem signalEntriesReadBack : Obligations.SignalEntriesReadBack :=
  fun ignored _ => ⟨rfl, rfl, rfl, rfl, Signal.ofEntry_toEntry ignored⟩

/-! ### One signal -/

/-- A decrement is by 1 and never below 0. -/
theorem decrement_toNat (t : Byte) : (decrement t).toNat = t.toNat - 1 := by
  unfold decrement
  split
  · next h => simp [h]
  · bv_omega

theorem decrement_eq_ite (t : Byte) : decrement t = if 0 < t.toNat then t - 1 else t := by
  unfold decrement
  by_cases h : t = 0
  · rw [if_pos h, if_neg (by simp [h]), h]
  · rw [if_neg h, if_pos (by bv_omega)]

/-- Settles O10: each case of a signal, with the guard of a decrement as the stated one. -/
theorem signalsApplyAsStated : Obligations.SignalsApplyAsStated := by
  intro w
  refine ⟨fun m => rfl, ?_, ?_, rfl⟩
  · rw [MachineState.applySignal, decrement_eq_ite]
    split <;> rfl
  · rw [MachineState.applySignal, decrement_eq_ite]
    split <;> rfl

/-! ### A drain -/

/-- Each timer falls by one for its own decrement and is left by every other signal. -/
theorem MachineState.applySignal_timers (w : MachineState) (g : Signal) :
    (w.applySignal g).dt.toNat = w.dt.toNat - (if g = .decrementDelayTimer then 1 else 0) ∧
      (w.applySignal g).st.toNat = w.st.toNat - (if g = .decrementSoundTimer then 1 else 0) := by
  cases g with
  | decrementDelayTimer => exact ⟨decrement_toNat w.dt, rfl⟩
  | decrementSoundTimer => exact ⟨rfl, decrement_toNat w.st⟩
  | setKeys | terminate => exact ⟨rfl, rfl⟩

theorem MachineState.applySignals_timers (w : MachineState) (l : List Signal) :
    (w.applySignals l).dt.toNat = w.dt.toNat - l.count .decrementDelayTimer ∧
      (w.applySignals l).st.toNat = w.st.toNat - l.count .decrementSoundTimer := by
  induction l generalizing w with
  | nil => exact ⟨rfl, rfl⟩
  | cons g l ih =>
    obtain ⟨hdt, hst⟩ := w.applySignal_timers g
    obtain ⟨ihdt, ihst⟩ := ih (w.applySignal g)
    simp only [applySignals_cons, ihdt, ihst, hdt, hst, List.count_cons, beq_iff_eq]
    omega

/-- Only a SetKeys writes `keys`. -/
theorem MachineState.applySignal_keys (w : MachineState) {g : Signal} (h : ∀ m, g ≠ .setKeys m) :
    (w.applySignal g).keys = w.keys := by
  cases g with
  | setKeys m => exact absurd rfl (h m)
  | decrementDelayTimer | decrementSoundTimer | terminate => rfl

theorem MachineState.applySignals_keys (w : MachineState) {l : List Signal} (h : ∀ m, .setKeys m ∉ l) :
    (w.applySignals l).keys = w.keys := by
  induction l generalizing w with
  | nil => rfl
  | cons g l ih =>
    rw [applySignals_cons, ih _ fun m hm => h m (List.mem_cons_of_mem g hm)]
    exact w.applySignal_keys fun m hg => h m (hg ▸ List.mem_cons_self)

/-- Settles O11: the timers and the status by induction, and `keys` as the part after the last SetKeys leaves it. -/
theorem drainAppliesEverySignal : Obligations.DrainAppliesEverySignal := by
  intro w l
  obtain ⟨hdt, hst⟩ := w.applySignals_timers l
  refine ⟨hdt, hst, ?_, w.applySignals_keys, w.applySignals_status_iff l,
    w.applySignals_eq l⟩
  rintro m l₁ l₂ rfl hlast
  rw [MachineState.applySignals_append, MachineState.applySignals_cons]
  exact MachineState.applySignals_keys _ hlast

/-! ### An enqueue -/

theorem State.enqueue_of_room {s : State} (g : Signal) (h : s.fifoFull = false) :
    s.enqueue g = { s with fifo := s.fifo ++ [g] } := by
  rw [State.enqueue, h]
  rfl

theorem State.enqueue_of_full {s : State} (g : Signal) (h : s.fifoFull = true) :
    s.enqueue g = { s with fifoOverflow := true } := if_pos h

/-- Settles O12: the FIFO is full exactly when a bound is reached. -/
theorem enqueueAppendsOrOverflows : Obligations.EnqueueAppendsOrOverflows := by
  intro s g
  refine ⟨fun hnone => State.enqueue_of_room g ?_, fun d hd => ⟨fun hlt => State.enqueue_of_room g ?_, fun hle => ?_⟩⟩
  · rw [State.fifoFull, hnone]
    rfl
  · rw [State.fifoFull, hd]
    exact decide_eq_false (Nat.not_le.2 hlt)
  · exact State.enqueue_of_full g (s.fifoFull_iff.2 ⟨d, hd, hle⟩)

end Sys2Proof.Machine
end

section
/-! # A frame, step by step (60_exceptions.md R133 to R139)

A slow step is first the step of its phase, and then one of ten moves, each with the state it leaves. What a phase does is read off its
step, and what every phase keeps is read off the moves. -/

namespace Sys2Proof.Machine

/-! ### The step of each phase -/

section
variable {s : State}

theorem State.slowStep_of_s1 (h : s.slowPhase = .s1) : s.slowStep = s.slowS1 := by rw [slowStep, h]
theorem State.slowStep_of_s2 (h : s.slowPhase = .s2) : s.slowStep = s.slowS2 := by rw [slowStep, h]
theorem State.slowStep_of_s3 (h : s.slowPhase = .s3) : s.slowStep = s.slowS3 := by rw [slowStep, h]
theorem State.slowStep_of_s4a (h : s.slowPhase = .s4a) : s.slowStep = s.slowS4a := by rw [slowStep, h]
theorem State.slowStep_of_s4b (h : s.slowPhase = .s4b) : s.slowStep = s.slowS4b := by rw [slowStep, h]
theorem State.slowStep_of_s5 (h : s.slowPhase = .s5) : s.slowStep = s.slowS5 := by rw [slowStep, h]
theorem State.slowStep_of_s6 (h : s.slowPhase = .s6) : s.slowStep = s.slowS6 := by rw [slowStep, h]

theorem State.slowS2_of_quit (h : s.sampledQuit = true) :
    s.slowS2 = { s.enqueue .terminate with quitIn := afterValue s.quitIn, slowStopped := true } := if_pos h

theorem State.slowS2_of_no_quit (h : s.sampledQuit = false) :
    s.slowS2 = { s with quitIn := afterValue s.quitIn, slowPhase := .s3 } := by
  rw [slowS2, h]
  rfl

theorem State.slowS3_of_terminated (h : s.snap.status = .terminated) :
    s.slowS3 = { s with frameSnap := s.snap, slowStopped := true } := if_pos h

theorem State.slowS3_of_active (h : s.snap.status = .active) :
    s.slowS3 = { s with frameSnap := s.snap, slowPhase := .s4a } :=
  if_neg (by simp [h])

end

/-- Sending an unchanged mask does nothing. -/
theorem State.sendKeys_of_eq {s : State} {m : Word} (h : m = s.lastKeysSent) : s.sendKeys m = s := if_pos h

theorem State.sendKeys_of_ne {s : State} {m : Word} (h : m ≠ s.lastKeysSent) :
    s.sendKeys m = { s.enqueue (.setKeys m) with lastKeysSent := m } := if_neg h

theorem State.slowS1_of_eq {s : State} (h : s.sampledKeys = s.lastKeysSent) :
    s.slowS1 = { s with keysIn := afterValue s.keysIn, slowPhase := .s2 } := by
  rw [State.slowS1, State.sendKeys_of_eq h]

theorem State.slowS1_of_ne {s : State} (h : s.sampledKeys ≠ s.lastKeysSent) :
    s.slowS1 =
      { s.enqueue (.setKeys s.sampledKeys) with
        lastKeysSent := s.sampledKeys, keysIn := afterValue s.keysIn, slowPhase := .s2 } := by
  rw [State.slowS1, State.sendKeys_of_ne h]

/-- The tone after S5 is on exactly when ST > 0, whatever it was. -/
theorem State.toneAfterS5_eq (s : State) : s.toneAfterS5 = decide (0 < s.frameSnap.st.toNat) := by
  unfold State.toneAfterS5
  rcases Nat.eq_zero_or_pos s.frameSnap.st.toNat with h | h
  · cases s.sounding <;> simp [h]
  · cases s.sounding <;> simp [h, h.ne']

/-! ### The moves of the slow domain -/

/-- What the next slow step can be, and the state it leaves (R133). -/
inductive State.SlowMove (s : State) : State → Prop where
  | keepKeys : s.slowPhase = .s1 → s.sampledKeys = s.lastKeysSent →
      SlowMove s { s with keysIn := afterValue s.keysIn, slowPhase := .s2 }
  | sendKeys : s.slowPhase = .s1 → s.sampledKeys ≠ s.lastKeysSent →
      SlowMove s
        { s.enqueue (.setKeys s.sampledKeys) with
          lastKeysSent := s.sampledKeys, keysIn := afterValue s.keysIn, slowPhase := .s2 }
  | quit : s.slowPhase = .s2 → s.sampledQuit = true →
      SlowMove s { s.enqueue .terminate with quitIn := afterValue s.quitIn, slowStopped := true }
  | goOn : s.slowPhase = .s2 → s.sampledQuit = false →
      SlowMove s { s with quitIn := afterValue s.quitIn, slowPhase := .s3 }
  | lastFrame : s.slowPhase = .s3 → s.snap.status = .terminated →
      SlowMove s { s with frameSnap := s.snap, slowStopped := true }
  | frame : s.slowPhase = .s3 → s.snap.status = .active → SlowMove s { s with frameSnap := s.snap, slowPhase := .s4a }
  | sendDelay : s.slowPhase = .s4a → SlowMove s { s.enqueue .decrementDelayTimer with slowPhase := .s4b }
  | sendSound : s.slowPhase = .s4b → SlowMove s { s.enqueue .decrementSoundTimer with slowPhase := .s5 }
  | tone : s.slowPhase = .s5 →
      SlowMove s { s with sounding := decide (0 < s.frameSnap.st.toNat), slowPhase := .s6 }
  | pace : s.slowPhase = .s6 → SlowMove s { s with slowPhase := .s1 }

/-- The slow step is one of these moves. -/
theorem State.slowMove (s : State) : s.SlowMove s.slowStep := by
  cases hp : s.slowPhase with
  | s1 =>
    rw [slowStep_of_s1 hp]
    by_cases h : s.sampledKeys = s.lastKeysSent
    · exact slowS1_of_eq h ▸ .keepKeys hp h
    · exact slowS1_of_ne h ▸ .sendKeys hp h
  | s2 =>
    rw [slowStep_of_s2 hp]
    cases h : s.sampledQuit with
    | true => exact slowS2_of_quit h ▸ .quit hp h
    | false => exact slowS2_of_no_quit h ▸ .goOn hp h
  | s3 =>
    rw [slowStep_of_s3 hp]
    cases h : s.snap.status with
    | terminated => exact slowS3_of_terminated h ▸ .lastFrame hp h
    | active => exact slowS3_of_active h ▸ .frame hp h
  | s4a => exact slowStep_of_s4a hp ▸ .sendDelay hp
  | s4b => exact slowStep_of_s4b hp ▸ .sendSound hp
  | s5 =>
    rw [slowStep_of_s5 hp, slowS5, toneAfterS5_eq]
    exact .tone hp
  | s6 => exact slowStep_of_s6 hp ▸ .pace hp

@[simp] theorem State.enqueue_slowPhase (s : State) (g : Signal) : (s.enqueue g).slowPhase = s.slowPhase := by
  rw [State.enqueue_eq]

@[simp] theorem State.enqueue_sounding (s : State) (g : Signal) : (s.enqueue g).sounding = s.sounding := by
  rw [State.enqueue_eq]

/-! ### From a step of the block to the slow domain's -/

/-- Where the slow domain moves, what the step leaves is the slow step after the turn. -/
theorem eq_slowStep_of_step {s t : State} (hm : s.mover = some .slow) (h : step s = .next t) : t = s.afterTurn.slowStep :=
  Host.Outcome.next.inj (h.symm.trans (step_of_slow hm))

theorem slowMove_of_step {s t : State} (hm : s.mover = some .slow) (h : step s = .next t) : s.afterTurn.SlowMove t :=
  eq_slowStep_of_step hm h ▸ s.afterTurn.slowMove

theorem step_eq_of_slowStep_eq {s t : State} (hm : s.mover = some .slow) (h : s.afterTurn.slowStep = t) : step s = .next t :=
  h ▸ step_of_slow hm

/-! ### S1 and S2 -/

@[simp] theorem State.sendKeys_lastKeysSent (s : State) (m : Word) : (s.sendKeys m).lastKeysSent = m := by
  by_cases h : m = s.lastKeysSent
  · rw [State.sendKeys_of_eq h, h]
  · rw [State.sendKeys_of_ne h]

theorem State.slowS1_eq (s : State) :
    s.slowS1 =
      { s with
        keysIn := afterValue s.keysIn, slowPhase := .s2, lastKeysSent := s.sampledKeys
        fifo := s.slowS1.fifo, fifoOverflow := s.slowS1.fifoOverflow } := by
  rw [State.slowS1, State.sendKeys_eq, State.sendKeys_lastKeysSent]

/-- Settles O13: the mask sampled may head the script, and S1 sends it if it is a changed one. -/
theorem frameSamplesKeys : Obligations.FrameSamplesKeys := by
  refine ⟨fun s m => ⟨⟨[m], 0⟩, nextValue_script _ _ _ _⟩, fun s hm hp => ?_⟩
  refine ⟨s.afterTurn.slowS1, step_eq_of_slowStep_eq hm (State.slowStep_of_s1 hp), s.afterTurn.slowS1_eq, fun heq => ?_,
    fun hne hroom => ?_, fun hne hfull => ?_⟩
  · rw [State.slowS1_of_eq (s := s.afterTurn) heq]
    exact ⟨rfl, rfl⟩
  · rw [State.slowS1_of_ne (s := s.afterTurn) hne, State.enqueue_of_room (s := s.afterTurn) _ hroom]
    exact ⟨rfl, rfl⟩
  · rw [State.slowS1_of_ne (s := s.afterTurn) hne, State.enqueue_of_full (s := s.afterTurn) _ hfull]
    exact ⟨rfl, rfl⟩

/-- Settles O14: the request sampled may head the script, and with it S2 makes one enqueue. -/
theorem frameSendsTerminateOnQuit : Obligations.FrameSendsTerminateOnQuit := by
  refine ⟨fun s b => ⟨⟨[b], 0⟩, nextValue_script _ _ _ _⟩, fun s hm hp => ?_⟩
  have hstep := step_eq_of_slowStep_eq hm (State.slowStep_of_s2 (s := s.afterTurn) hp)
  refine ⟨fun hno => ?_, fun hquit hroom => ?_, fun hquit hfull => ?_⟩
  · rw [hstep, State.slowS2_of_no_quit (s := s.afterTurn) hno]
    rfl
  · rw [hstep, State.slowS2_of_quit (s := s.afterTurn) hquit, State.enqueue_of_room (s := s.afterTurn) _ hroom]
    rfl
  · rw [hstep, State.slowS2_of_quit (s := s.afterTurn) hquit, State.enqueue_of_full (s := s.afterTurn) _ hfull]
    rfl

/-! ### S3 -/

theorem State.frameOutPort_getLsbD (s : State) {col row : Nat} (hc : col < 64) (hr : row < 32) :
    s.frameOutPort.getLsbD (row * 64 + col) = s.frameSnap.disp.pixel col row := by
  have hk : row * 64 + col < 2048 := by omega
  have hmod : (row * 64 + col) % 64 = col := by omega
  have hdiv : (row * 64 + col) / 64 = row := by omega
  rw [State.frameOutPort, BitVec.getLsbD_eq_getElem hk, BitVec.getElem_ofFnLE, hmod, hdiv]

@[simp] theorem State.slowS3_frameSnap (s : State) : s.slowS3.frameSnap = s.snap := by
  unfold State.slowS3
  split <;> rfl

/-- After S3 `frame_out` shows the display of the snapshot. -/
theorem frameOut_of_step_s3 {s t : State} (hm : s.mover = some .slow) (hp : s.slowPhase = .s3) (h : step s = .next t)
    {col row : Nat} (hc : col < 64) (hr : row < 32) :
    t.frameOutPort.getLsbD (row * 64 + col) = s.snap.disp.pixel col row := by
  rw [State.frameOutPort_getLsbD _ hc hr, eq_slowStep_of_step hm h, State.slowStep_of_s3 (s := s.afterTurn) hp,
    State.slowS3_frameSnap, State.afterTurn_snap]

/-- Settles O15: the status of the snapshot decides between S4a and the stop. -/
theorem frameReadsTheSnapshot : Obligations.FrameReadsTheSnapshot := by
  intro s hm hp
  have hstep := step_eq_of_slowStep_eq hm (State.slowStep_of_s3 (s := s.afterTurn) hp)
  refine ⟨fun t h col row => frameOut_of_step_s3 hm hp h, fun hactive => ?_, fun hterm => ?_⟩
  · rw [hstep, State.slowS3_of_active (s := s.afterTurn) hactive]
    rfl
  · rw [hstep, State.slowS3_of_terminated (s := s.afterTurn) hterm]
    rfl

/-! ### S4a and S4b -/

/-- An enqueue adds no signal of another kind. -/
theorem State.count_enqueue_of_ne (s : State) {g g' : Signal} (h : g' ≠ g) :
    (s.enqueue g').fifo.count g = s.fifo.count g := by
  rcases s.enqueue_cases g' with ⟨-, he⟩ | ⟨-, he⟩ <;> rw [he]
  simp [h]

/-- The signal is sent by the slow steps of one phase only. -/
def SentOnlyIn (g : Signal) (p : SlowPhase) : Prop :=
  ∀ s t : State, s.SlowMove t → s.slowPhase ≠ p → t.fifo.count g = s.fifo.count g

theorem delayTimer_sentOnlyIn : SentOnlyIn .decrementDelayTimer .s4a := by
  intro s t h hp
  cases h with
  | keepKeys | goOn | lastFrame | frame | tone | pace => rfl
  | sendKeys | quit | sendSound => exact s.count_enqueue_of_ne nofun
  | sendDelay h => exact absurd h hp

theorem soundTimer_sentOnlyIn : SentOnlyIn .decrementSoundTimer .s4b := by
  intro s t h hp
  cases h with
  | keepKeys | goOn | lastFrame | frame | tone | pace => rfl
  | sendKeys | quit | sendDelay => exact s.count_enqueue_of_ne nofun
  | sendSound h => exact absurd h hp

theorem State.slowS4a_of_room {s : State} (h : s.fifoFull = false) :
    s.slowS4a = { s with fifo := s.fifo ++ [.decrementDelayTimer], slowPhase := .s4b } := by
  rw [slowS4a, enqueue_of_room _ h]

theorem State.slowS4a_of_full {s : State} (h : s.fifoFull = true) :
    s.slowS4a = { s with fifoOverflow := true, slowPhase := .s4b } := by
  rw [slowS4a, enqueue_of_full _ h]

theorem State.slowS4b_of_room {s : State} (h : s.fifoFull = false) :
    s.slowS4b = { s with fifo := s.fifo ++ [.decrementSoundTimer], slowPhase := .s5 } := by
  rw [slowS4b, enqueue_of_room _ h]

theorem State.slowS4b_of_full {s : State} (h : s.fifoFull = true) :
    s.slowS4b = { s with fifoOverflow := true, slowPhase := .s5 } := by
  rw [slowS4b, enqueue_of_full _ h]

/-- Settles O16: S4a and S4b make one enqueue each, and no other phase enqueues a decrement. -/
theorem frameSendsOneDecrementOfEach : Obligations.FrameSendsOneDecrementOfEach := by
  intro s hm
  refine ⟨fun hp hroom => ?_, fun hp hroom => ?_, fun hp hfull => ?_, fun hp hfull => ?_, fun hp t h => ?_, fun hp t h => ?_⟩
  · exact step_eq_of_slowStep_eq hm ((State.slowStep_of_s4a (s := s.afterTurn) hp).trans (State.slowS4a_of_room hroom))
  · exact step_eq_of_slowStep_eq hm ((State.slowStep_of_s4b (s := s.afterTurn) hp).trans (State.slowS4b_of_room hroom))
  · exact step_eq_of_slowStep_eq hm ((State.slowStep_of_s4a (s := s.afterTurn) hp).trans (State.slowS4a_of_full hfull))
  · exact step_eq_of_slowStep_eq hm ((State.slowStep_of_s4b (s := s.afterTurn) hp).trans (State.slowS4b_of_full hfull))
  · exact delayTimer_sentOnlyIn s.afterTurn t (slowMove_of_step hm h) hp
  · exact soundTimer_sentOnlyIn s.afterTurn t (slowMove_of_step hm h) hp

/-! ### S5 and S6 -/

/-- No phase but S5 touches the tone. -/
theorem State.SlowMove.sounding_eq {s t : State} (h : s.SlowMove t) (hp : s.slowPhase ≠ .s5) : t.sounding = s.sounding := by
  cases h with
  | keepKeys | goOn | lastFrame | frame | pace => rfl
  | sendKeys | quit | sendDelay | sendSound => exact s.enqueue_sounding _
  | tone h => exact absurd h hp

/-- Settles O17: S5 computes the tone afresh, and the other phases leave it. -/
theorem frameDrivesTheTone : Obligations.FrameDrivesTheTone := by
  intro s hm
  refine ⟨fun hp => step_eq_of_slowStep_eq hm ?_, fun hp t h => ?_, fun hp => ?_⟩
  · rw [State.slowStep_of_s5 (s := s.afterTurn) hp, State.slowS5, State.toneAfterS5_eq]
    rfl
  · exact (slowMove_of_step hm h).sounding_eq hp
  · exact step_eq_of_slowStep_eq hm (State.slowStep_of_s6 (s := s.afterTurn) hp)

end Sys2Proof.Machine
end

section
/-! # The synchronizer over a step and a run (60_exceptions.md R124, R134, R138, R141)

The tone is followed through the phases and the mask last sent through the FIFO. The timer cadence is one count per step, summed
over the run. -/

namespace Sys2Proof.Machine

/-! ### The settled tone -/

/-- The tone's half of the synchronizer invariant. -/
def State.ToneFollows (s : State) : Prop :=
  s.slowPhase.toneSettled = true → s.sounding = decide (0 < s.frameSnap.st.toNat)

/-- S5 settles the tone, S6 to S2 keep it with the frame's snapshot, and S3 unsettles it. -/
theorem State.SlowMove.toneFollows {s t : State} (h : s.SlowMove t) (hs : s.ToneFollows) : t.ToneFollows := by
  cases h with
  | keepKeys hp => exact fun _ => hs (hp ▸ rfl)
  | sendKeys hp | quit hp =>
    intro _
    simpa using hs (hp ▸ rfl)
  | lastFrame hp => exact fun ht => nomatch (hp ▸ ht : SlowPhase.toneSettled .s3 = true)
  | goOn | frame | sendDelay | sendSound => exact nofun
  | tone => exact fun _ => rfl
  | pace hp => exact fun _ => hs (hp ▸ rfl)

/-! ### The mask last sent -/

/-- The keys' half of the synchronizer invariant. -/
def State.KeysArrive (s : State) : Prop := s.fifoOverflow = false → (s.work.applySignals s.fifo).keys = s.lastKeysSent

/-- Queuing a signal that is no SetKeys leaves the mask to arrive. -/
theorem State.KeysArrive.enqueue {s : State} (hs : s.KeysArrive) {g : Signal} (hg : ∀ m, g ≠ .setKeys m) :
    (s.enqueue g).KeysArrive := by
  rcases s.enqueue_cases g with ⟨-, he⟩ | ⟨-, he⟩ <;> rw [he]
  · intro ho
    rw [MachineState.applySignals_append]
    exact (MachineState.applySignal_keys _ hg).trans (hs ho)
  · exact nofun

/-- A SetKeys just queued is the last one, so its mask arrives. -/
theorem State.keysArrive_enqueue_setKeys (s : State) (m : Word) :
    State.KeysArrive { s.enqueue (.setKeys m) with lastKeysSent := m } := by
  rcases s.enqueue_cases (.setKeys m) with ⟨-, he⟩ | ⟨-, he⟩ <;> rw [he]
  · intro _
    rw [MachineState.applySignals_append]
    rfl
  · exact nofun

theorem State.SlowMove.keysArrive {s t : State} (h : s.SlowMove t) (hs : s.KeysArrive) : t.KeysArrive := by
  cases h with
  | keepKeys | goOn | lastFrame | frame | tone | pace => exact hs
  | sendKeys => exact s.keysArrive_enqueue_setKeys s.sampledKeys
  | quit | sendDelay | sendSound => exact hs.enqueue nofun

/-- A drain moves the mask from the FIFO into `keys`, where the rest of the tick leaves it. -/
theorem State.fastStep_keysArrive {s t : State} (hs : s.KeysArrive) (h : s.fastStep = .next t) : t.KeysArrive := by
  rcases s.fastStep_cases with
      ⟨-, h'⟩ | ⟨-, ho, h'⟩ | ⟨-, -, -, h'⟩ | ⟨-, -, -, c, n, h'⟩ | ⟨-, -, -, -, i, u, -, h', hu, hkeys, -⟩ <;>
    obtain rfl := Host.Outcome.next.inj (h.symm.trans h')
  · exact hs
  · exact fun hno => nomatch ho.symm.trans hno
  · exact hs
  · exact hs
  · rw [hu]
    exact fun ho => hkeys.trans (hs ho)

/-! ### The synchronizer invariant -/

theorem State.syncInv_iff (s : State) : s.syncInv ↔ s.ToneFollows ∧ s.KeysArrive :=
  ⟨fun ⟨ht, hk⟩ => ⟨ht, hk⟩, fun ⟨ht, hk⟩ => ⟨ht, hk⟩⟩

theorem State.fastStep_toneFollows {s t : State} (hs : s.ToneFollows) (h : s.fastStep = .next t) : t.ToneFollows := by
  rw [State.fastStep_eq h]
  exact hs

/-- Settles O50: each kind of step keeps both halves of the invariant, which the turns do not touch. -/
theorem stepKeepsTheSynchronizer : Obligations.StepKeepsTheSynchronizer := by
  intro s t hs h
  obtain ⟨htone, hkeys⟩ := s.syncInv_iff.1 hs
  rw [State.syncInv_iff]
  rcases step_cases h with ⟨-, hfast⟩ | ⟨-, rfl⟩
  · exact ⟨State.fastStep_toneFollows (s := s.afterTurn) htone hfast, State.fastStep_keysArrive (s := s.afterTurn) hkeys hfast⟩
  · exact ⟨s.afterTurn.slowMove.toneFollows htone, s.afterTurn.slowMove.keysArrive hkeys⟩

/-! ### The timer cadence -/

/-- A fast step takes from the FIFO what it applies. -/
theorem State.count_fastStep {s t : State} (g : Signal) (h : s.fastStep = .next t) :
    (if s.fastPhase = .drain ∧ s.fifoOverflow = false then s.fifo.count g else 0) + t.fifo.count g = s.fifo.count g := by
  rcases s.fastStep_cases with
      ⟨hp, h'⟩ | ⟨-, ho, h'⟩ | ⟨hp, ho, -, h'⟩ | ⟨hp, ho, -, c, n, h'⟩ | ⟨hp, ho, -, -, i, u, -, h', hu, -⟩ <;>
    obtain rfl := Host.Outcome.next.inj (h.symm.trans h')
  · simp [hp]
  · simp [ho]
  · simp [hp, ho]
  · simp [hp, ho]
  · rw [hu]
    simp [hp, ho]

/-- A slow step adds one signal at most, and one of `g` only in its phase. -/
theorem State.count_slowStep_le (s : State) {g : Signal} {p : SlowPhase} (hg : SentOnlyIn g p) :
    s.slowStep.fifo.count g ≤ (if s.slowPhase = p then 1 else 0) + s.fifo.count g := by
  split
  · rcases s.slowStep_fifo with h | ⟨g', h⟩ <;> rw [h]
    · omega
    · rw [List.count_append, Nat.add_comm]
      exact Nat.add_le_add_right List.count_le_length _
  · next hp => exact (hg s _ s.slowMove hp).trans_le (Nat.le_add_left _ _)

theorem State.sends_of_fast {s : State} (p : SlowPhase) (hm : s.mover = some .fast) : s.sends p = 0 :=
  if_neg fun ⟨hslow, _⟩ => nomatch hm.symm.trans hslow

theorem State.applies_of_slow {s : State} (g : Signal) (hm : s.mover = some .slow) : s.applies g = 0 :=
  if_neg fun ⟨hfast, _⟩ => nomatch hm.symm.trans hfast

theorem State.sends_of_slow {s : State} (p : SlowPhase) (hm : s.mover = some .slow) :
    s.sends p = if s.slowPhase = p then 1 else 0 :=
  if_congr (and_iff_right hm) rfl rfl

theorem State.applies_of_fast {s : State} (g : Signal) (hm : s.mover = some .fast) :
    s.applies g = if s.fastPhase = .drain ∧ s.fifoOverflow = false then s.fifo.count g else 0 :=
  if_congr (and_iff_right hm) rfl rfl

/-- One step's account: what it applies and leaves queued was queued before or is sent by it. -/
theorem count_step_le {g : Signal} {p : SlowPhase} (hg : SentOnlyIn g p) {s t : State} (h : step s = .next t) :
    s.applies g + t.fifo.count g ≤ s.sends p + s.fifo.count g := by
  rcases step_cases h with ⟨hm, hfast⟩ | ⟨hm, rfl⟩
  · rw [s.applies_of_fast g hm, s.sends_of_fast p hm, Nat.zero_add]
    exact Nat.le_of_eq (State.count_fastStep (s := s.afterTurn) g hfast)
  · rw [s.applies_of_slow g hm, s.sends_of_slow p hm, Nat.zero_add]
    exact s.afterTurn.count_slowStep_le hg

/-- The account of a run is the sum of its steps' accounts. -/
theorem tally_le {g : Signal} {p : SlowPhase} (hg : SentOnlyIn g p) {s t : State} {n m : Nat} (h : tally g p s n m t) :
    m + t.fifo.count g ≤ n + s.fifo.count g := by
  induction h with
  | start => exact Nat.le_refl _
  | more _ hstep ih =>
    have := count_step_le hg hstep
    omega

/-- Settles O52: each timer's decrements are sent in one phase only. -/
theorem decrementsNeverOutrunTheFrames : Obligations.DecrementsNeverOutrunTheFrames :=
  fun _ _ _ _ => ⟨tally_le delayTimer_sentOnlyIn, tally_le soundTimer_sentOnlyIn⟩

end Sys2Proof.Machine
end

section
/-! # What the slow domain sees and shows (60_exceptions.md R146, R148, R149)

That the slow domain sees nothing of the fast one's own state but the snapshot slot is said, as for the fast domain, by a graft with
which every slow step commutes. The frame ports are read off the slow domain's moves. -/

namespace Sys2Proof.Machine

/-! ### The graft of the fast domain's own state -/

/-- `s` with the working state, the fast domain's own state, the turns and the draws of `u`. -/
def State.withFastOf (s u : State) : State :=
  { s with work := u.work, fastPhase := u.fastPhase, fastStopped := u.fastStopped, turns := u.turns, draws := u.draws }

/-- Two states agree for the slow domain exactly where the second is the first with the second's fast domain. -/
theorem slowAgree_iff (s t : State) : slowAgree s t ↔ t = s.withFastOf t := Iff.rfl

theorem slowAgree_withFastOf (s u : State) : slowAgree s (s.withFastOf u) := rfl

theorem ite_eq_withFastOf {u : State} {c : Prop} [Decidable c] {a a' b b' : State} (ha : a' = a.withFastOf u)
    (hb : b' = b.withFastOf u) : (if c then a' else b') = (if c then a else b).withFastOf u := by
  rw [ha, hb, apply_ite (State.withFastOf · u)]

theorem State.enqueue_withFastOf (s u : State) (g : Signal) : (s.withFastOf u).enqueue g = (s.enqueue g).withFastOf u :=
  ite_eq_withFastOf rfl rfl

theorem State.sendKeys_withFastOf (s u : State) (m : Word) : (s.withFastOf u).sendKeys m = (s.sendKeys m).withFastOf u := by
  exact ite_eq_withFastOf rfl
    (congrArg (fun v : State => { v with lastKeysSent := m }) (s.enqueue_withFastOf u (.setKeys m)))

/-- No slow step sees the fast domain's own state: each phase reads only what the graft leaves. -/
theorem State.slowStep_withFastOf (s u : State) : (s.withFastOf u).slowStep = s.slowStep.withFastOf u := by
  have hphase : (s.withFastOf u).slowPhase = s.slowPhase := rfl
  unfold State.slowStep
  rw [hphase]
  cases s.slowPhase with
  | s1 =>
    exact congrArg (fun v : State => { v with keysIn := afterValue s.keysIn, slowPhase := .s2 })
      (s.sendKeys_withFastOf u s.sampledKeys)
  | s2 =>
    exact ite_eq_withFastOf
      (congrArg (fun v : State => { v with quitIn := afterValue s.quitIn, slowStopped := true })
        (s.enqueue_withFastOf u .terminate))
      rfl
  | s3 => exact ite_eq_withFastOf rfl rfl
  | s4a => exact congrArg (fun v : State => { v with slowPhase := .s4b }) (s.enqueue_withFastOf u .decrementDelayTimer)
  | s4b => exact congrArg (fun v : State => { v with slowPhase := .s5 }) (s.enqueue_withFastOf u .decrementSoundTimer)
  | s5 | s6 => rfl

/-- Settles O54: the second state is the first under a graft, which the slow step commutes with. -/
theorem slowStepSeesOnlyTheSnapshot : Obligations.SlowStepSeesOnlyTheSnapshot := by
  intro s t hagree
  have ht : t.slowStep = s.slowStep.withFastOf t :=
    (congrArg State.slowStep ((slowAgree_iff s t).1 hagree)).trans (s.slowStep_withFastOf t)
  exact ht ▸ slowAgree_withFastOf s.slowStep t

/-! ### The frame ports -/

theorem State.frameStrobePort_of_ne {s : State} (h4a : s.slowPhase ≠ .s4a) (h3 : s.slowPhase = .s3 → s.slowStopped = false) :
    s.frameStrobePort = false := by
  rw [← Bool.not_eq_true, State.frameStrobePort_iff]
  rintro (h | ⟨hp, hstop⟩)
  · exact h4a h
  · exact nomatch (h3 hp).symm.trans hstop

/-- S3 raises the strobe, and stops the slow domain only on a Terminated snapshot. -/
theorem State.SlowMove.strobe_of_s3 {s t : State} (h : s.SlowMove t) (hp : s.slowPhase = .s3) (hrun : s.slowStopped = false) :
    t.frameStrobePort = true ∧ (t.slowStopped = true → s.snap.status = .terminated) := by
  rw [State.frameStrobePort_iff]
  cases h with
  | lastFrame _ hterm => exact ⟨.inr ⟨hp, rfl⟩, fun _ => hterm⟩
  | frame => exact ⟨.inl rfl, fun hstop => nomatch hrun.symm.trans hstop⟩
  | keepKeys h | sendKeys h | quit h | goOn h | sendDelay h | sendSound h | tone h | pace h => exact nomatch hp.symm.trans h

/-- Every other phase leaves the strobe low. -/
theorem State.SlowMove.strobe_of_ne_s3 {s t : State} (h : s.SlowMove t) (hp : s.slowPhase ≠ .s3) (hrun : s.slowStopped = false) :
    t.frameStrobePort = false := by
  cases h with
  | keepKeys | sendKeys | sendDelay | sendSound | tone | pace => exact State.frameStrobePort_of_ne nofun nofun
  | goOn => exact State.frameStrobePort_of_ne nofun fun _ => hrun
  | quit h =>
    have hs2 : (s.enqueue .terminate).slowPhase = .s2 := (s.enqueue_slowPhase _).trans h
    exact State.frameStrobePort_of_ne (fun h4a => nomatch hs2.symm.trans h4a) fun h3 => nomatch hs2.symm.trans h3
  | lastFrame h | frame h => exact absurd h hp

/-- Settles O59: S3 raises the strobe, the other phases lower it, and the fast domain touches nothing it shows. -/
theorem frameStrobePulsesAfterS3 : Obligations.FrameStrobePulsesAfterS3 := by
  intro s t h
  refine ⟨fun hm hp => ?_, fun hm hp => ?_, fun hm => ?_⟩
  · obtain ⟨-, hrun⟩ := State.mover_slow hm
    have hlow : s.frameStrobePort = false := State.frameStrobePort_of_ne (hp ▸ nofun) fun _ => hrun
    have hkeep : t.fastStopped = s.fastStopped := eq_slowStep_of_step hm h ▸ s.afterTurn.slowStep_fastStopped
    obtain ⟨hhigh, hterm⟩ := (slowMove_of_step hm h).strobe_of_s3 hp hrun
    refine ⟨hlow, hhigh, fun col row => frameOut_of_step_s3 hm hp h, fun hlife hstop => ?_⟩
    obtain ⟨hfast, -⟩ := hlife.snapTerminated (hterm hstop)
    exact ⟨hkeep.trans hfast, hstop⟩
  · obtain ⟨-, hrun⟩ := State.mover_slow hm
    exact (slowMove_of_step hm h).strobe_of_ne_s3 hp hrun
  · have hfast : s.afterTurn.fastStep = .next t := (step_of_fast hm).symm.trans h
    rw [State.fastStep_eq hfast]
    exact ⟨rfl, rfl⟩

end Sys2Proof.Machine
end

section
/-! # A tick and its faults (60_exceptions.md R112 to R118, R128 to R132)

Each way a tick can go is said once as an equation for `step`. A step that records a fault is one of two fault paths, and the code
it records is followed from the instruction up to the step. -/

namespace Sys2Proof.Machine

/-! ### The drained block -/

theorem State.drain_afterTurn (s : State) : s.afterTurn.drain = s.drained := rfl

@[simp] theorem State.drained_pc (s : State) : s.drained.work.pc = s.work.pc := by
  rw [State.drained, MachineState.applySignals_eq]

@[simp] theorem State.drained_fault (s : State) : s.drained.work.fault = s.work.fault := MachineState.applySignals_fault _ _

theorem State.drained_readByte (s : State) (a : Nat) : s.drained.readByte a = s.readByte a := by
  rw [State.drained, MachineState.applySignals_eq]
  rfl

theorem State.drained_fetchWord (s : State) :
    s.drained.fetchWord = wordOfBytes (s.readByte s.work.pc.toNat) (s.readByte (s.work.pc.toNat + 1)) := by
  rw [State.fetchWord, State.drained_readByte, State.drained_readByte, State.drained_pc]

/-! ### The ways of a tick -/

theorem blockInRange_two_iff (a : Word) : blockInRange a 2 = true ↔ a.toNat ≤ 0xFFE := by
  rw [blockInRange_succ_iff]
  omega

theorem State.instructionCycle_of_decode {s : State} {i : Instr} (hpc : s.work.pc.toNat ≤ 0xFFE)
    (h : decode s.fetchWord = .ok i) : s.instructionCycle = exec i s.advance := by
  rw [State.instructionCycle, if_pos ((blockInRange_two_iff _).2 hpc), h]

theorem State.instructionCycle_of_unknown {s : State} {e : DecodeError} (hpc : s.work.pc.toNat ≤ 0xFFE)
    (h : decode s.fetchWord = .error e) : s.instructionCycle = .next (s.takeFault .unknownOpcode s.fetchWord) := by
  rw [State.instructionCycle, if_pos ((blockInRange_two_iff _).2 hpc), h]

theorem State.instructionCycle_of_beyond {s : State} (hpc : 0xFFE < s.work.pc.toNat) :
    s.instructionCycle = .next (s.takeFault .memoryOutOfRange (BitVec.ofNat 16 (max s.work.pc.toNat 0x1000))) := by
  rw [State.instructionCycle, if_neg (mt (blockInRange_two_iff _).1 (Nat.not_le.2 hpc)), firstBeyond_eq]

section
variable {s : State} (hm : s.mover = some .fast)
include hm

theorem step_of_publish (hp : s.fastPhase = .publish) : step s = .next s.afterTurn.tickPublish := by
  rw [step_of_fast hm, State.fastStep, State.afterTurn_fastPhase, hp]

theorem step_of_drain (hp : s.fastPhase = .drain) : step s = s.afterTurn.tickDrainExecute := by
  rw [step_of_fast hm, State.fastStep, State.afterTurn_fastPhase, hp]

theorem step_of_overflow (hp : s.fastPhase = .drain) (ho : s.fifoOverflow = true) :
    step s = .next (s.afterTurn.takeFault .signalOverflow 0) := by
  rw [step_of_drain hm hp, State.tickDrainExecute, State.afterTurn_fifoOverflow, if_pos ho]

theorem step_of_terminated (hp : s.fastPhase = .drain) (ho : s.fifoOverflow = false)
    (ht : s.drained.work.status = .terminated) : step s = .next s.drained.stopFast := by
  rw [step_of_drain hm hp, State.tickDrainExecute, State.afterTurn_fifoOverflow, if_neg (by simp [ho]),
    State.drain_afterTurn, if_pos ht]

theorem step_of_running (hp : s.fastPhase = .drain) (ho : s.fifoOverflow = false)
    (ha : s.drained.work.status = .active) : step s = s.drained.instructionCycle := by
  rw [step_of_drain hm hp, State.tickDrainExecute, State.afterTurn_fifoOverflow, if_neg (by simp [ho]),
    State.drain_afterTurn, if_neg (by simp [ha])]

end

/-- Settles O9: the publish of the block whose turn is taken. -/
theorem publishCopiesWorkingState : Obligations.PublishCopiesWorkingState :=
  fun _ hm hp => step_of_publish hm hp

/-- Settles O6: the pc and the bytes read are those before the drain, and `exec` starts in the advanced block (log entry 9). -/
theorem stepRunsDecodedInstruction : Obligations.StepRunsDecodedInstruction := by
  intro s i hm hp ho ha hpc hdecode
  rw [← State.drained_fetchWord] at hdecode
  rw [← State.drained_pc] at hpc ⊢
  exact (step_of_running hm hp ho ha).trans (State.instructionCycle_of_decode hpc hdecode)

theorem State.takeFault_faulted (s : State) (c : FaultCode) (n : Word) : faulted s c n (s.takeFault c n) :=
  ⟨rfl, rfl, fun _ => rfl⟩

/-- Settles O7: each clause is one way of a tick. -/
theorem tickFaultsInOrder : Obligations.TickFaultsInOrder := by
  intro s hm hp
  refine ⟨fun ho => ?_, step_of_terminated hm hp, fun ho ha hpc => ?_, fun ho ha hpc w hw hdecode => ?_⟩
  · exact ⟨_, step_of_overflow hm hp ho, State.takeFault_faulted _ _ _⟩
  · rw [← State.drained_pc] at hpc ⊢
    have hstep := (step_of_running hm hp ho ha).trans (State.instructionCycle_of_beyond hpc)
    exact ⟨_, hstep, State.takeFault_faulted _ _ _⟩
  · rw [← State.drained_fetchWord] at hw
    rw [← State.drained_pc] at hpc
    subst hw
    have hstep := (step_of_running hm hp ho ha).trans (State.instructionCycle_of_unknown hpc hdecode)
    exact ⟨_, hstep, State.takeFault_faulted _ _ _⟩

/-! ### A step that records a fault -/

/-- It takes the fault path, from before the drain on an overflow and from after it otherwise. -/
theorem step_records_fault {s t : State} (h : step s = .next t) (hnone : s.work.fault = none) (hsome : t.work.fault ≠ none) :
    (s.fifoOverflow = true ∧ t = s.afterTurn.takeFault .signalOverflow 0) ∨
      (s.fifoOverflow = false ∧ ∃ c n, t = s.drained.takeFault c n) := by
  rcases step_cases h with ⟨-, hfast⟩ | ⟨-, rfl⟩
  · rcases s.afterTurn.fastStep_cases with
        ⟨-, h'⟩ | ⟨-, ho, h'⟩ | ⟨-, -, -, h'⟩ | ⟨-, ho, -, c, n, h'⟩ |
        ⟨-, -, -, -, i, u, -, h', -, -, -, hfault⟩ <;>
      obtain rfl := Host.Outcome.next.inj (hfast.symm.trans h')
    · exact absurd hnone hsome
    · exact .inl ⟨ho, rfl⟩
    · exact absurd (s.drained_fault.trans hnone) hsome
    · exact .inr ⟨ho, c, n, rfl⟩
    · exact absurd (hfault.trans hnone) hsome
  · rw [State.slowStep_work] at hsome
    exact absurd hnone hsome

theorem State.mover_ne_fast_of_stopped {s : State} (h : s.fastStopped = true) : s.mover ≠ some .fast := by
  intro hm
  obtain ⟨-, hrun⟩ := State.mover_fast hm
  exact nomatch h.symm.trans hrun

/-- Settles O8: the fault path leaves its own effects and a stopped fast domain. -/
theorem faultPathKeepsTheDrainedState : Obligations.FaultPathKeepsTheDrainedState := by
  intro s t h hnone hsome
  rcases step_records_fault h hnone hsome with ⟨ho, rfl⟩ | ⟨ho, c, n, rfl⟩
  · exact ⟨fun _ => State.takeFault_faulted _ _ _, fun hno => absurd (ho.symm.trans hno) nofun,
      State.mover_ne_fast_of_stopped rfl⟩
  · exact ⟨fun hyes => absurd (ho.symm.trans hyes) nofun, fun _ => ⟨c, n, State.takeFault_faulted _ _ _⟩,
      State.mover_ne_fast_of_stopped rfl⟩

/-- A step that records a fault records it at the pc before the step. -/
theorem step_records_pc {s t : State} (h : step s = .next t) (hnone : s.work.fault = none) (hsome : t.work.fault ≠ none) :
    ∃ c n, t.work.fault = some ⟨c, s.work.pc, n⟩ := by
  rcases step_records_fault h hnone hsome with ⟨-, rfl⟩ | ⟨-, c, n, rfl⟩
  · exact ⟨.signalOverflow, 0, rfl⟩
  · exact ⟨c, n, s.drained_pc ▸ rfl⟩

/-- Settles O60: the ports are read off the record. -/
theorem faultPortsShowTheRecord : Obligations.FaultPortsShowTheRecord := by
  refine ⟨fun s => ⟨State.faultCodePort_of_none, fun r hr => ?_⟩, fun s t h hnone hsome => ?_⟩
  · obtain ⟨hcode, hpc, hinfo⟩ := State.faultPorts_of_some hr
    refine ⟨hpc, hinfo, hcode.trans ?_⟩
    cases r.code <;> rfl
  · obtain ⟨c, n, hr⟩ := step_records_pc h hnone hsome
    obtain ⟨hcode, hpc, -⟩ := State.faultPorts_of_some hr
    exact ⟨State.faultCodePort_of_none hnone, hcode.trans_ne c.number_ne_zero, hpc⟩

/-! ### The code a step records -/

/-- The record stays, or the new one has a code of `P`. -/
def NewFaultIn (P : FaultCode → Prop) (s t : State) : Prop :=
  t.work.fault = s.work.fault ∨ ∃ r, t.work.fault = some r ∧ P r.code

theorem NewFaultIn.mono {P Q : FaultCode → Prop} {s t : State} (h : NewFaultIn P s t) (hPQ : ∀ c, P c → Q c) :
    NewFaultIn Q s t :=
  h.imp_right fun ⟨r, hr, hc⟩ => ⟨r, hr, hPQ r.code hc⟩

theorem newFaultIn_next_or_raise {P : FaultCode → Prop} {s u t : State} {g : Prop} [Decidable g] {code : FaultCode}
    {info : Word} (h : (if g then .next u else s.raise code info) = .next t) (hu : u.work.fault = s.work.fault)
    (hcode : P code) : NewFaultIn P s t := by
  split at h
  · exact Host.Outcome.next.inj h ▸ .inl hu
  · exact Host.Outcome.next.inj h ▸ .inr ⟨_, rfl, hcode⟩

theorem newFaultIn_raise_or_next {P : FaultCode → Prop} {s u t : State} {g : Prop} [Decidable g] {code : FaultCode}
    {info : Word} (h : (if g then s.raise code info else .next u) = .next t) (hu : u.work.fault = s.work.fault)
    (hcode : P code) : NewFaultIn P s t := by
  split at h
  · exact Host.Outcome.next.inj h ▸ .inr ⟨_, rfl, hcode⟩
  · exact Host.Outcome.next.inj h ▸ .inl hu

theorem State.skipIf_fault (s : State) (c : Bool) : (s.skipIf c).work.fault = s.work.fault := by
  rw [State.skipIf_eq]
  rfl

theorem State.writeResultAndFlag_fault (s : State) (x : Reg) (r : Byte) (f : Bool) :
    (s.writeResultAndFlag x r f).work.fault = s.work.fault := by
  rw [State.writeResultAndFlag_eq]

/-- An execution records no code but the instruction's own (R115). -/
theorem exec_newFaultIn {i : Instr} {s t : State} (h : exec i s = .next t) : NewFaultIn (ownFault i = some ·) s t := by
  cases i with
  | cls | jp | jpV0 | ldImm | addImm | ldReg | orReg | andReg | xorReg | ldI | rnd | ldFromDt | ldToDt | ldToSt =>
    exact Host.Outcome.next.inj h ▸ .inl rfl
  | seImm | sneImm | seReg | sneReg => exact Host.Outcome.next.inj h ▸ .inl (s.skipIf_fault _)
  | addReg | sub | subn | shr | shl => exact Host.Outcome.next.inj h ▸ .inl (s.writeResultAndFlag_fault _ _ _)
  | ldKey => exact of_execLdKey h (fun _ => .inl rfl) fun _ => .inl rfl
  | skp | sknp => exact newFaultIn_next_or_raise h (s.skipIf_fault _) rfl
  | ldFont | store | load | bcd | drw => exact newFaultIn_next_or_raise h rfl rfl
  | addI | call => exact newFaultIn_raise_or_next h rfl rfl
  | ret =>
    change execRet s = .next t at h
    unfold execRet at h
    split at h
    · exact Host.Outcome.next.inj h ▸ .inr ⟨_, rfl, rfl⟩
    · exact Host.Outcome.next.inj h ▸ .inl rfl

/-- The codes a step may record: not the reserved one, and not the one of the load (R117, R118). -/
def RaisedByStep (c : FaultCode) : Prop := c ≠ .linkFailure ∧ c ≠ .loadTooLarge

theorem ownFault_raisedByStep {i : Instr} {c : FaultCode} (h : ownFault i = some c) : RaisedByStep c := by
  cases i with
  | call | ret | addI | ldFont | skp | sknp | drw | store | load | bcd => exact Option.some.inj h ▸ ⟨nofun, nofun⟩
  | _ => exact nomatch h

theorem State.instructionCycle_newFaultIn {s t : State} (h : s.instructionCycle = .next t) : NewFaultIn RaisedByStep s t := by
  unfold State.instructionCycle at h
  split at h
  · split at h
    · exact (exec_newFaultIn h).mono fun _ => ownFault_raisedByStep
    · exact Host.Outcome.next.inj h ▸ .inr ⟨_, rfl, nofun, nofun⟩
  · exact Host.Outcome.next.inj h ▸ .inr ⟨_, rfl, nofun, nofun⟩

theorem State.tickDrainExecute_newFaultIn {s t : State} (h : s.tickDrainExecute = .next t) : NewFaultIn RaisedByStep s t := by
  have hdrain : s.drain.work.fault = s.work.fault := MachineState.applySignals_fault _ _
  rcases s.tickDrainExecute_cases with ⟨-, h'⟩ | ⟨-, -, h'⟩ | ⟨-, -, h'⟩
  · exact Host.Outcome.next.inj (h.symm.trans h') ▸ .inr ⟨_, rfl, nofun, nofun⟩
  · exact Host.Outcome.next.inj (h.symm.trans h') ▸ .inl hdrain
  · exact (State.instructionCycle_newFaultIn (h'.symm.trans h)).imp_left fun hkeep => hkeep.trans hdrain

theorem State.fastStep_newFaultIn {s t : State} (h : s.fastStep = .next t) : NewFaultIn RaisedByStep s t := by
  unfold State.fastStep at h
  split at h
  · exact State.tickDrainExecute_newFaultIn h
  · exact Host.Outcome.next.inj h ▸ .inl rfl

/-- Settles O23: the code is followed from the instruction through the tick. -/
theorem instructionsRaiseOnlyTheirFault : Obligations.InstructionsRaiseOnlyTheirFault := by
  refine ⟨fun i s t h hne => (exec_newFaultIn h).resolve_left hne, fun s t r h hr hne => ?_⟩
  rcases step_cases h with ⟨-, hfast⟩ | ⟨-, rfl⟩
  · rcases State.fastStep_newFaultIn hfast with hkeep | ⟨r', hr', hcode⟩
    · exact absurd (hkeep.symm.trans hr) hne
    · obtain rfl := Option.some.inj (hr'.symm.trans hr)
      exact hcode
  · rw [State.slowStep_work] at hr
    exact absurd hr hne

end Sys2Proof.Machine
end

section
/-! # The run and its end (60_exceptions.md R117, R143, R150, 70_reset_and_hazards.md R169, R170)

A step is enabled while some domain is; a domain stays enabled while the other one moves, which is what fairness and the liveness
bounds rest on. -/

namespace Sys2Proof.Machine

/-! ### When a step is enabled -/

theorem step_next_of_mover {s : State} {a : Agent} (hm : s.mover = some a) : ∃ t, step s = .next t := by
  cases a with
  | fast =>
    obtain ⟨t, ht⟩ := s.afterTurn.fastStep_next
    exact ⟨t, (step_of_fast hm).trans ht⟩
  | slow => exact ⟨_, step_of_slow hm⟩

theorem step_of_mover_none {s : State} (hm : s.mover = none) :
    step s = .fault (if s.loadError then .neverStarted else .runEnded) := by
  rw [step, hm]

theorem State.mover_eq_none_iff (s : State) : s.mover = none ↔ ¬(s.loadError = false ∧ ¬s.ended) := by
  rw [Option.eq_none_iff_forall_ne_some, ← not_exists]
  exact not_congr s.exists_mover

theorem step_of_loadError {s : State} (hl : s.loadError = true) : step s = .fault .neverStarted := by
  rw [step_of_mover_none (s.mover_eq_none_iff.2 fun ⟨hno, _⟩ => absurd (hl.symm.trans hno) nofun), hl]
  rfl

theorem step_of_ended {s : State} (hl : s.loadError = false) (he : s.ended) : step s = .fault .runEnded := by
  rw [step_of_mover_none (s.mover_eq_none_iff.2 fun ⟨_, hne⟩ => hne he), hl]
  rfl

/-- Settles O18: a step answers a next state exactly where some domain moves. -/
theorem stepsUntilTheRunEnds : Obligations.StepsUntilTheRunEnds := by
  refine fun s => ⟨⟨fun ⟨t, ht⟩ => ?_, fun h => ?_⟩, step_of_loadError, step_of_ended⟩
  · rcases step_cases ht with ⟨hm, -⟩ | ⟨hm, -⟩
    · exact s.exists_mover.1 ⟨_, hm⟩
    · exact s.exists_mover.1 ⟨_, hm⟩
  · obtain ⟨a, hm⟩ := s.exists_mover.2 h
    exact step_next_of_mover hm

/-- Settles O47: the failed load records the fault and sets `load_error`, and touches no byte. -/
theorem oversizedImageNeverStarts : Obligations.OversizedImageNeverStarts := by
  rintro p image hlong s rfl
  rw [State.boot_of_oversized p (Nat.not_le.2 hlong)]
  exact ⟨rfl, rfl, rfl, fun _ => rfl, step_of_loadError rfl⟩

/-! ### Which domain moves -/

/-- Settles O19: the turns that offer the next step to the domain. -/
theorem anyEnabledDomainMayStep : Obligations.AnyEnabledDomainMayStep :=
  fun s a h => ⟨⟨a, 0, s.turns.bursts⟩, State.mover_of_turn h⟩

/-- A step of one domain leaves whether the other is enabled. -/
theorem step_enabled_of_ne {s t : State} {a b : Agent} (hm : s.mover = some b) (hab : a ≠ b) (h : step s = .next t) :
    t.enabled a = s.enabled a := by
  rcases step_cases h with ⟨hfast, hstep⟩ | ⟨hslow, rfl⟩
  · cases a with
    | fast => exact absurd (Option.some.inj (hfast.symm.trans hm)) hab
    | slow =>
      rw [State.fastStep_eq hstep]
      rfl
  · cases a with
    | fast => simp [State.enabled]
    | slow => exact absurd (Option.some.inj (hslow.symm.trans hm)) hab

theorem State.exists_mover_of_enabled {s : State} {a : Agent} (h : s.enabled a = true) : ∃ b, s.mover = some b := by
  rw [State.exists_mover]
  cases a with
  | fast =>
    obtain ⟨hl, hf⟩ : s.loadError = false ∧ s.fastStopped = false := by simpa [State.enabled] using h
    exact ⟨hl, fun ⟨hstop, _⟩ => absurd (hf.symm.trans hstop) nofun⟩
  | slow =>
    obtain ⟨hl, hf⟩ : s.loadError = false ∧ s.slowStopped = false := by simpa [State.enabled] using h
    exact ⟨hl, fun ⟨_, hstop⟩ => absurd (hf.symm.trans hstop) nofun⟩

theorem otherAgent_otherAgent (a : Agent) : otherAgent (otherAgent a) = a := by cases a <;> rfl

theorem eq_otherAgent_of_ne : ∀ {a b : Agent}, b ≠ a → b = otherAgent a
  | .fast, .slow, _ => rfl
  | .slow, .fast, _ => rfl
  | .fast, .fast, h => absurd rfl h
  | .slow, .slow, h => absurd rfl h

/-- A domain alone in being enabled moves, whoever's turn it is. -/
theorem State.mover_of_alone {s : State} {a : Agent} (h : s.enabled a = true) (hother : s.enabled (otherAgent a) = false) :
    s.mover = some a := by
  obtain ⟨b, hm⟩ := State.exists_mover_of_enabled h
  by_cases hb : b = a
  · exact hb ▸ hm
  · have hen := State.mover_enabled hm
    rw [eq_otherAgent_of_ne hb, hother] at hen
    exact nomatch hen

/-! ### Several steps -/

theorem State.after_succ {s t : State} (h : step s = .next t) (n : Nat) : s.after (n + 1) = t.after n := by
  rw [State.after, h]

theorem State.step_of_after_succ {s u : State} {n : Nat} (h : s.after (n + 1) = some u) :
    ∃ t, step s = .next t ∧ t.after n = some u := by
  unfold State.after at h
  split at h
  · next t ht => exact ⟨t, ht, h⟩
  · exact nomatch h

/-! ### Weak fairness -/

/-- The domain moves after finitely many further steps. -/
def State.MovesLater (a : Agent) (s : State) : Prop := ∃ k u, s.after k = some u ∧ u.mover = some a

theorem State.MovesLater.of_mover {a : Agent} {s : State} (hm : s.mover = some a) : s.MovesLater a := ⟨0, s, rfl, hm⟩

theorem State.MovesLater.of_step {a : Agent} {s t : State} (h : step s = .next t) (ht : t.MovesLater a) : s.MovesLater a := by
  obtain ⟨k, u, hu, hm⟩ := ht
  exact ⟨k + 1, u, (State.after_succ h k).trans hu, hm⟩

/-- An enabled domain moves now, or stays enabled over a step that takes one turn. -/
theorem State.mover_or_step {a : Agent} {s : State} (he : s.enabled a = true) :
    s.mover = some a ∨ ∃ t, step s = .next t ∧ t.enabled a = true ∧ t.turns = s.turns.after := by
  obtain ⟨b, hm⟩ := State.exists_mover_of_enabled he
  by_cases hab : a = b
  · exact .inl (hab ▸ hm)
  · obtain ⟨t, ht⟩ := step_next_of_mover hm
    exact .inr ⟨t, ht, (step_enabled_of_ne hm hab ht).trans he, step_turns ht⟩

/-- A burst of the other domain passes, however long it is. -/
theorem State.movesLater_of_burst {a : Agent} (n : Nat) {s : State} {q : Supply Nat}
    (ht : s.turns = ⟨otherAgent a, n, q⟩) (he : s.enabled a = true) : s.MovesLater a := by
  induction n generalizing s with
  | zero =>
    rcases State.mover_or_step he with hm | ⟨t, h, het, hturns⟩
    · exact .of_mover hm
    · have hagent : t.turns.agent = a := by rw [hturns, ht, Turns.after_last, otherAgent_otherAgent]
      subst hagent
      exact .of_step h (.of_mover (State.mover_of_turn het))
  | succ n ih =>
    rcases State.mover_or_step he with hm | ⟨t, h, het, hturns⟩
    · exact .of_mover hm
    · exact .of_step h (ih (hturns.trans (ht ▸ rfl)) het)

/-- Settles O57: an enabled domain moves at its own turn, or once the other one's burst is over. -/
theorem everyRunIsWeaklyFair : Obligations.EveryRunIsWeaklyFair := by
  intro s a n t _ he
  by_cases ha : t.turns.agent = a
  · subst ha
    exact State.MovesLater.of_mover (State.mover_of_turn he)
  · have hburst : t.turns = ⟨otherAgent a, t.turns.more, t.turns.bursts⟩ := by rw [← eq_otherAgent_of_ne ha]
    exact State.movesLater_of_burst _ hburst he

/-! ### Every interleaving -/

/-- The turns offer their steps to the listed domains in order. -/
def Turns.Offers : Turns → List Agent → Prop
  | _, [] => True
  | q, a :: l => q.agent = a ∧ q.after.Offers l

/-- Any list of domains is offered by some turns, whatever number of bursts they count as drawn: a domain listed twice in a row has
its burst one longer, and where the domain changes, the script gives the length of the next burst. -/
theorem Turns.exists_offers (a : Agent) (l : List Agent) (n : Nat) :
    ∃ m script, Turns.Offers ⟨a, m, ⟨script, n⟩⟩ (a :: l) := by
  induction l generalizing a n with
  | nil => exact ⟨0, [], rfl, trivial⟩
  | cons b l ih =>
    by_cases hb : b = a
    · subst hb
      obtain ⟨m, script, hq⟩ := ih b n
      exact ⟨m + 1, script, rfl, hq⟩
    · obtain rfl := eq_otherAgent_of_ne hb
      obtain ⟨m, script, hq⟩ := ih (otherAgent a) (n + 1)
      exact ⟨0, m :: script, rfl, hq⟩

/-- Along the run each listed domain moves at its step, wherever it is enabled there. -/
theorem State.mover_of_offers {s : State} {l : List Agent} (hq : s.turns.Offers l) {k : Nat} (hk : k < l.length) {t : State}
    (ht : s.after k = some t) (he : t.enabled l[k] = true) : t.mover = some l[k] := by
  induction l generalizing s k with
  | nil => exact nomatch hk
  | cons a l ih =>
    obtain ⟨ha, hafter⟩ := hq
    cases k with
    | zero =>
      obtain rfl : s = t := Option.some.inj ht
      subst ha
      exact State.mover_of_turn he
    | succ k =>
      obtain ⟨u, hu, hut⟩ := State.step_of_after_succ ht
      exact ih (step_turns hu ▸ hafter) (Nat.lt_of_succ_lt_succ hk) hut he

/-- Settles O58: the turns that offer the listed domains in order. -/
theorem everyInterleavingIsAdmitted : Obligations.EveryInterleavingIsAdmitted := by
  intro s choices
  cases choices with
  | nil => exact ⟨s.turns, fun k hk => nomatch hk⟩
  | cons a l =>
    obtain ⟨m, script, hq⟩ := Turns.exists_offers a l 0
    exact ⟨_, fun k hk t ht he => State.mover_of_offers hq hk ht he⟩

end Sys2Proof.Machine
end

section
/-! # How the run ends (60_exceptions.md R113, R127, R136, R143, 70_reset_and_hazards.md R170)

After a fault the slow domain is alone and walks to S3, which shows it the Terminated snapshot. After a queued Terminate the fast
domain is alone and its next drain applies it. -/

namespace Sys2Proof.Machine

/-! ### After a fault -/

/-- How many slow steps come before the next S3. -/
def SlowPhase.toS3 : SlowPhase → Nat
  | .s3 => 0
  | .s2 => 1
  | .s1 => 2
  | .s6 => 3
  | .s5 => 4
  | .s4b => 5
  | .s4a => 6

theorem SlowPhase.toS3_le (p : SlowPhase) : p.toS3 ≤ 6 := by cases p <;> decide

/-- With a Terminated snapshot each slow step stops the domain or brings S3 one step nearer. -/
theorem State.SlowMove.stops_or_nears {s t : State} (h : s.SlowMove t) (hterm : s.snap.status = .terminated) :
    t.slowStopped = true ∨ t.slowPhase.toS3 + 1 = s.slowPhase.toS3 := by
  cases h with
  | quit | lastFrame => exact .inl rfl
  | frame _ hactive => exact nomatch hterm.symm.trans hactive
  | keepKeys hp | sendKeys hp | goOn hp | sendDelay hp | sendSound hp | tone hp | pace hp => exact .inr (hp ▸ rfl)

/-- The fast domain has taken the fault path, and the slot shows it. -/
structure State.AfterFault (s : State) : Prop where
  loaded : s.loadError = false
  stopped : s.fastStopped = true
  recorded : s.work.fault ≠ none
  published : s.snap.status = .terminated

theorem State.lifeInv.afterFault {s : State} (hs : s.lifeInv) (hl : s.loadError = false) (hf : s.work.fault ≠ none) :
    s.AfterFault where
  loaded := hl
  stopped := (hs.terminatedStops (hs.faultTerminates hf)).resolve_right (by simp [hl])
  recorded := hf
  published := hs.faultPublished hf hl ▸ hs.faultTerminates hf

theorem State.AfterFault.slowStep {s : State} (h : s.AfterFault) : s.afterTurn.slowStep.AfterFault where
  loaded := (State.slowStep_loadError _).trans h.loaded
  stopped := (State.slowStep_fastStopped _).trans h.stopped
  recorded := (State.slowStep_work s.afterTurn).symm ▸ h.recorded
  published := (State.slowStep_snap s.afterTurn).symm ▸ h.published

theorem State.AfterFault.mover {s : State} (h : s.AfterFault) (hrun : ¬s.slowStopped = true) : s.mover = some .slow :=
  State.mover_of_alone (by simp [State.enabled, h.loaded, hrun]) (by simp [State.enabled, otherAgent, h.stopped])

theorem State.AfterFault.not_endedWell {s : State} (h : s.AfterFault) : ¬s.endedWell := fun ⟨_, hnone⟩ => h.recorded hnone

/-- The slow domain walks to its stop alone. -/
theorem State.AfterFault.ends {s : State} (h : s.AfterFault) (n : Nat) (hn : s.slowStopped = true ∨ s.slowPhase.toS3 < n) :
    ∃ k t, k ≤ n ∧ s.after k = some t ∧ t.ended ∧ ¬t.endedWell := by
  induction n generalizing s with
  | zero =>
    have hstop : s.slowStopped = true := hn.resolve_right (Nat.not_lt_zero _)
    exact ⟨0, s, Nat.le_refl _, rfl, ⟨h.stopped, hstop⟩, h.not_endedWell⟩
  | succ n ih =>
    by_cases hstop : s.slowStopped = true
    · exact ⟨0, s, Nat.zero_le _, rfl, ⟨h.stopped, hstop⟩, h.not_endedWell⟩
    · have hlt : s.slowPhase.toS3 < n + 1 := hn.resolve_left hstop
      have hnear := s.afterTurn.slowMove.stops_or_nears h.published
      obtain ⟨k, t, hk, ht, hend⟩ := ih h.slowStep (hnear.imp_right fun hp => by
        rw [State.afterTurn_slowPhase] at hp
        omega)
      have hstep := step_of_slow (h.mover hstop)
      exact ⟨k + 1, t, Nat.succ_le_succ hk, (State.after_succ hstep k).trans ht, hend⟩

/-- Settles O55: S3 is at most six slow steps away and is the last one. -/
theorem faultEndsTheRunWithinAFrame : Obligations.FaultEndsTheRunWithinAFrame :=
  fun s hs hl hf => (hs.afterFault hl hf).ends 7 (.inr (Nat.lt_succ_of_le s.slowPhase.toS3_le))

/-! ### After a queued Terminate -/

/-- Terminate is queued, its sender has stopped, and the fast domain runs. -/
structure State.Quitting (s : State) : Prop where
  life : s.lifeInv
  loaded : s.loadError = false
  running : s.fastStopped = false
  noOverflow : s.fifoOverflow = false
  queued : Signal.terminate ∈ s.fifo

theorem State.Quitting.slowStopped {s : State} (h : s.Quitting) : s.slowStopped = true := h.life.terminateSent h.queued

theorem State.Quitting.mover {s : State} (h : s.Quitting) : s.mover = some .fast :=
  State.mover_of_alone (by simp [State.enabled, h.loaded, h.running]) (by simp [State.enabled, otherAgent, h.slowStopped])

/-- The drain that applies the Terminate ends the run well. -/
theorem State.Quitting.drain {s : State} (h : s.Quitting) (hp : s.fastPhase = .drain) :
    ∃ t, step s = .next t ∧ t.endedWell := by
  have hterm : s.drained.work.status = .terminated := (s.work.applySignals_status_iff s.fifo).2 (.inr h.queued)
  have hnone : s.drained.work.fault = none := s.drained_fault.trans (h.life.fault_eq_none h.loaded h.running)
  exact ⟨_, step_of_terminated h.mover hp h.noOverflow hterm, ⟨rfl, h.slowStopped⟩, hnone⟩

theorem State.Quitting.publish {s : State} (h : s.Quitting) (hp : s.fastPhase = .publish) :
    ∃ t, step s = .next t ∧ t.Quitting ∧ t.fastPhase = .drain := by
  have hstep := step_of_publish h.mover hp
  exact ⟨_, hstep, ⟨stepKeepsTheLife _ _ h.life hstep, h.loaded, h.running, h.noOverflow, h.queued⟩, rfl⟩

/-- Settles O56: a publish may come first, then the drain. -/
theorem quitEndsTheRunWell : Obligations.QuitEndsTheRunWell := by
  intro s hlife hl hf ho hmem
  have hs : s.Quitting := ⟨hlife, hl, hf, ho, hmem⟩
  cases hp : s.fastPhase with
  | drain =>
    obtain ⟨t, ht, hend⟩ := hs.drain hp
    exact ⟨1, t, by decide, State.after_succ ht 0, hend⟩
  | publish =>
    obtain ⟨u, hu, hquit, hdrain⟩ := hs.publish hp
    obtain ⟨t, ht, hend⟩ := hquit.drain hdrain
    exact ⟨2, t, by decide, (State.after_succ hu 1).trans (State.after_succ ht 0), hend⟩

end Sys2Proof.Machine
end
